-- ==== Sys2Proof/Word.lean ====
section
/-! DEFINITION. Word.lean: the widths of the values the block moves (00_scope.md rules R8, R9; 30_encoding.md rule R70).
All values are unsigned bit vectors; bit 0 is the least significant bit. -/

namespace Sys2Proof

/-- A file byte, a group byte latch, an index entry (R34, R21, R31). -/
abbrev Byte := BitVec 8

/-- F-RGB, a 24-bit colour: red [23:16], green [15:8], blue [7:0] (R75). -/
abbrev Rgb := BitVec 24

/-- F-PIX, a 32-bit pixel: alpha [31:24], red, green, blue (R77). -/
abbrev Pixel := BitVec 32

end Sys2Proof
end

