-- ==== Sys2Proof/Config.lean ====
section
/-! DEFINITION. Config.lean: what the spec leaves open, as constants with no body.
Nothing in Lean can evaluate one of them or prove a value of it, so a claim that holds here holds for every value.
The named numeric constants of 00_scope.md rule R6 stand in Sys2Proof/Machine/Constants.lean. -/

namespace Sys2Proof.Config

/-- The colours of the palette ROM that the spec does not give (00_scope.md R7, 43_palette_rom.md R145): the entry at each
slot other than slot 0 and the black slot. Log entry 7. -/
opaque paletteRest : Nat → Rgb

/-- The free number that `Const.sBlack` takes the open slot of the stencil black from (00_scope.md R7; U6). Log entry 7. -/
opaque blackSlotFree : Nat

/-- `out_data` while `out_valid = 0` (10_state.md R35, U7): any value, at each clock edge anew. Log entry 6. -/
opaque idleOutData : Nat → Pixel

/-- `out_last` while `out_valid = 0` (10_state.md R35, U7): any value, at each clock edge anew. Log entry 6. -/
opaque idleOutLast : Nat → Bool

end Sys2Proof.Config
end

