-- ==== Sys2Proof/Machine/Constants.lean ====
section
/-! DEFINITION. Machine/Constants.lean: the constants of the block by name (00_scope.md rule R6, decision D24), and the
palette ROM (rule R7). -/

namespace Sys2Proof.Const

/-- MAGIC[0..3], the ASCII codes of `PIXB` (R6; G1). -/
def magic (p : BitVec 2) : Byte :=
  if p = 0 then 0x50 else if p = 1 then 0x49 else if p = 2 then 0x58 else 0x42

/-- How many bytes MAGIC has: offsets 0..3 of R6. -/
def magicLen : Nat := 4

/-- The file offset of the last magic byte, where the verdict is given (R101), as HPOS[1:0]. -/
def magicLast : BitVec 2 := BitVec.ofNat 2 (magicLen - 1)

/-- The first four file bytes as the field H[31:0] of F-HDR, File(0) in the low byte (30_encoding.md R71). -/
def magicWord : BitVec 32 := magic 3 ++ magic 2 ++ magic 1 ++ magic 0

/-- DIM_OFF: file offset of the low byte of the dimension code. -/
def dimOff : Nat := 6

/-- The header offset of the low byte of the dimension code, as HPOS (R102). -/
def dimLoPos : BitVec 6 := BitVec.ofNat 6 dimOff

/-- The header offset of its high byte, as HPOS (R103). -/
def dimHiPos : BitVec 6 := BitVec.ofNat 6 (dimOff + 1)

/-- HDR_MIN: least number of file bytes the header validator needs. -/
def hdrMin : Nat := 8

/-- BODY_OFF: file offset of the first body byte. -/
def bodyOff : Nat := 32

/-- GRP_IN: source bytes per unpack iteration. -/
def grpIn : Nat := 7

/-- The value of GCNT at the last byte of a group (R121, R123). -/
def grpLast : BitVec 3 := BitVec.ofNat 3 (grpIn - 1)

/-- GRP_OUT: index bytes per unpack iteration. -/
def grpOut : Nat := 8

/-- NGROUPS: unpack iterations per file. -/
def nGroups : Nat := 128

/-- BODY_LEN: body bytes consumed. -/
def bodyLen : Nat := nGroups * grpIn

/-- FRAME_LEN: file bytes the block can ever accept. -/
def frameLen : Nat := bodyOff + bodyLen

/-- BUF_LEN: entries of IDXBUF. -/
def bufLen : Nat := nGroups * grpOut

/-- BUF_STRIDE: entries per row of IDXBUF seen as a 32 x 32 grid. -/
def bufStride : Nat := 32

/-- PAL_LEN: entries of the palette ROM. -/
def palLen : Nat := 96

/-- PAL_FALLBACK: the colour of an index of 96 or more. -/
def palFallback : Rgb := 0xFFFFFF

/-- ST_BLACK_RGB: the colour stencil mode maps to opaque black. -/
def stBlackRgb : Rgb := 0x211E1F

/-- ST_WHITE_RGB: the colour stencil mode maps to opaque white. -/
def stWhiteRgb : Rgb := 0xFFFFFF

/-- PIX_BLACK: stencil output word, opaque black. -/
def pixBlack : Pixel := 0xFF000000

/-- PIX_WHITE: stencil output word, opaque white. -/
def pixWhite : Pixel := 0xFFFFFFFF

/-- PIX_CLEAR: stencil output word, fully transparent. -/
def pixClear : Pixel := 0x00000000

/-- ALPHA_OPAQUE: the alpha byte of every opaque-mode pixel. -/
def alphaOpaque : Byte := 0xFF

/-- One entry of DIMTAB: a visible size and a skip offset (R6, R13 DimensionProfile). -/
structure Profile where
  vsize : BitVec 6
  skip : BitVec 4
  deriving DecidableEq, Repr

/-- DIMTAB[0]. -/
def dim0 : Profile := { vsize := 16, skip := 8 }

/-- DIMTAB[1] (the pairing is decision D23). -/
def dim1 : Profile := { vsize := 24, skip := 4 }

/-- DIMTAB[2]. -/
def dim2 : Profile := { vsize := 32, skip := 0 }

/-- DIMTAB seen from the dimension code: legal for 0, 1, 2 only (40_header_validator.md R100, R103). -/
def profileOf (code : Int) : Option Profile :=
  if code = 0 then some dim0 else if code = 1 then some dim1 else if code = 2 then some dim2 else none

/-- (VSIZE, SKIP) is one of the three pairs of DIMTAB (R28, U18). -/
def legalProfile (vsize : BitVec 6) (skip : BitVec 4) : Bool :=
  decide (Profile.mk vsize skip = dim0) || decide (Profile.mk vsize skip = dim1) ||
    decide (Profile.mk vsize skip = dim2)

/-- `PALETTE[0]` (R7 P1). -/
def palSlot0 : Rgb := 0xFFFFFF

/-- `S_BLACK`, the open slot that holds the black-palette entry (R7 P2, R145): any slot from 1 to PAL_LEN - 1, and no other,
as the free number varies. Log entry 7. -/
def sBlack : Nat := Config.blackSlotFree % (palLen - 1) + 1

/-- `PALETTE[a]`: white at slot 0 (R7 P1), 0x211E1F at `S_BLACK` (R7 P2), open everywhere else. Log entry 7. -/
def palette (a : Nat) : Rgb :=
  if a = 0 then palSlot0 else if a = sBlack then stBlackRgb else Config.paletteRest a

end Sys2Proof.Const
end

