-- ==== Sys2Proof/Syntax.lean ====
section
/-! DEFINITION. Syntax.lean: the 23 operations of 30_encoding.md rule R81, one constructor per row of
spec/opcode_table.json, and the formats they are selected from (rule R70). A constructor's arguments are the bits of the
format that the row's mask leaves free. -/

namespace Sys2Proof

/-- The seven formats of R70 whose fields select an operation (F-GRP, F-ADDR, F-RGB and F-PIX select none). -/
inductive Format where
  /-- F-OFF, 6 bits: the header byte offset HPOS. -/
  | off
  /-- F-HDR, 64 bits: the first eight file bytes. -/
  | hdr
  /-- F-GC, 3 bits: the byte-in-group counter GCNT. -/
  | gc
  /-- F-XY, 20 bits: SKIP, VSIZE, Y, X. -/
  | xy
  /-- F-IDX, 8 bits: one decoded index byte. -/
  | idx
  /-- F-CMP, 25 bits: MODE over a palette colour. -/
  | cmp
  /-- F-EVT, 3 bits: rst, in_valid, out_ready. -/
  | evt
  deriving DecidableEq, Repr

/-- The width of each format (R70). -/
def Format.width : Format → Nat
  | .off => 6
  | .hdr => 64
  | .gc => 3
  | .xy => 20
  | .idx => 8
  | .cmp => 25
  | .evt => 3

/-- The operations of the block (R81). -/
inductive Instr where
  /-- HV.MAGIC (R101): `p` is HPOS[1:0]. -/
  | hvMagic (p : BitVec 2)
  /-- HV.DIMLO (R102). -/
  | hvDimlo
  /-- HV.DIMHI (R103). -/
  | hvDimhi
  /-- HV.SKIP (R107): `p` is HPOS. -/
  | hvSkip (p : BitVec 6)
  /-- HV.DIM0 (R104): `ign` is file bytes 4 and 5, which nothing reads. -/
  | hvDim0 (ign : BitVec 16)
  /-- HV.DIM1 (R105). -/
  | hvDim1 (ign : BitVec 16)
  /-- HV.DIM2 (R106). -/
  | hvDim2 (ign : BitVec 16)
  /-- UNP.LOAD (R121): `gcnt` is GCNT. -/
  | unpLoad (gcnt : BitVec 3)
  /-- UNP.EXPAND (R123). -/
  | unpExpand
  /-- ADEC.MAP (R131): the four fields of F-XY. -/
  | adecMap (skip : BitVec 4) (vsize : BitVec 6) (y x : BitVec 5)
  /-- ADEC.NEXT (R134): the four fields of F-XY. -/
  | adecNext (skip : BitVec 4) (vsize : BitVec 6) (y x : BitVec 5)
  /-- PAL.ROM_LO (R141): `i` is idx[5:0]. -/
  | palRomLo (i : BitVec 6)
  /-- PAL.ROM_HI (R142): `i` is idx[4:0]. -/
  | palRomHi (i : BitVec 5)
  /-- PAL.WHITE_7 (R143): `i` is idx[4:0]. -/
  | palWhite7 (i : BitVec 5)
  /-- PAL.WHITE_8 (R144): `i` is idx[6:0]. -/
  | palWhite8 (i : BitVec 7)
  /-- COMP.OPAQUE (R151). -/
  | compOpaque (rgb : Rgb)
  /-- COMP.ST_BLACK (R152). -/
  | compStBlack
  /-- COMP.ST_WHITE (R153). -/
  | compStWhite
  /-- COMP.ST_CLEAR (R154). -/
  | compStClear (rgb : Rgb)
  /-- SEQ.RESET (R160). -/
  | seqReset (inValid outReady : Bool)
  /-- SEQ.INBYTE (R162, R163). -/
  | seqInbyte (outReady : Bool)
  /-- SEQ.PADBYTE (R164). -/
  | seqPadbyte (inValid outReady : Bool)
  /-- SEQ.OUTPIX (R166). -/
  | seqOutpix (inValid : Bool)
  deriving DecidableEq, Repr

/-- The format an operation is selected from (R81). -/
def Instr.format : Instr → Format
  | .hvMagic _ => .off
  | .hvDimlo => .off
  | .hvDimhi => .off
  | .hvSkip _ => .off
  | .hvDim0 _ => .hdr
  | .hvDim1 _ => .hdr
  | .hvDim2 _ => .hdr
  | .unpLoad _ => .gc
  | .unpExpand => .gc
  | .adecMap _ _ _ _ => .xy
  | .adecNext _ _ _ _ => .xy
  | .palRomLo _ => .idx
  | .palRomHi _ => .idx
  | .palWhite7 _ => .idx
  | .palWhite8 _ => .idx
  | .compOpaque _ => .cmp
  | .compStBlack => .cmp
  | .compStWhite => .cmp
  | .compStClear _ => .cmp
  | .seqReset _ _ => .evt
  | .seqInbyte _ => .evt
  | .seqPadbyte _ _ => .evt
  | .seqOutpix _ => .evt

end Sys2Proof
end

