-- ==== Sys2Proof/WellFormed.lean ====
section
/-! DEFINITION. WellFormed.lean: which operand values an operation can have, so that its row is the one selected.
The three checks: HV.SKIP's offset is one no other F-OFF row takes and one that occurs (30_encoding.md R81, R82, R84 d);
UNP.LOAD's counter is one that occurs (R70, U18); COMP.ST_CLEAR's colour is neither stencil constant (R82). -/

namespace Sys2Proof

/-- The operands are ones with which the operation's own row is selected. -/
def Instr.WellFormed : Instr → Bool
  | .hvMagic _ => true
  | .hvDimlo => true
  | .hvDimhi => true
  | .hvSkip p => 
    decide (Const.magicLen ≤ p.toNat ∧ p ≠ Const.dimLoPos ∧ p ≠ Const.dimHiPos ∧ p.toNat < Const.bodyOff)
  | .hvDim0 _ => true
  | .hvDim1 _ => true
  | .hvDim2 _ => true
  | .unpLoad g => decide (g.toNat < Const.grpIn)
  | .unpExpand => true
  | .adecMap _ _ _ _ => true
  | .adecNext _ _ _ _ => true
  | .palRomLo _ => true
  | .palRomHi _ => true
  | .palWhite7 _ => true
  | .palWhite8 _ => true
  | .compOpaque _ => true
  | .compStBlack => true
  | .compStWhite => true
  | .compStClear c => decide (c ≠ Const.stBlackRgb ∧ c ≠ Const.stWhiteRgb)
  | .seqReset _ _ => true
  | .seqInbyte _ => true
  | .seqPadbyte _ _ => true
  | .seqOutpix _ => true

end Sys2Proof
end

