-- ==== Sys2Proof/Decode.lean ====
section
/-! DEFINITION. Decode.lean: from the bits of a format to the operations its rows select, and back (30_encoding.md rules
R70 to R84). `decode` is total: a word that no row of its format takes is rejected by name. Where two rows of one format
match, the row with the greater mask wins (R82); in F-GC, F-XY and F-EVT several rows may act on one word (R81). -/

namespace Sys2Proof

/-- Why a word is rejected. -/
inductive DecodeError where
  /-- F-OFF 32 to 63: HPOS never holds it in HDR (R84 d, U18). -/
  | offUnreachable
  /-- F-HDR with H[31:0] not the magic word (R83 a). -/
  | badMagic
  /-- F-HDR with the magic good and the dimension code not 0, 1 or 2 (R83 b). -/
  | badDimension
  /-- F-GC 7: GCNT never holds it (R70, U18). -/
  | gcUnreachable
  deriving DecidableEq, Repr

/-- F-OFF: which header operation handles the byte at offset `p` (R81, R82): a magic byte, a byte of the dimension code at
DIM_OFF, or any other byte before BODY_OFF. -/
def decodeOff (p : BitVec 6) : Except DecodeError Instr :=
  if p.toNat < Const.magicLen then .ok (.hvMagic (p.extractLsb' 0 2))
  else if p = Const.dimLoPos then .ok .hvDimlo
  else if p = Const.dimHiPos then .ok .hvDimhi
  else if p.toNat < Const.bodyOff then .ok (.hvSkip p)
  else .error .offUnreachable

/-- F-HDR: the profile operation, by the dimension code read as a signed number (R71, R80 a, R103). -/
def decodeHdr (h : BitVec 64) : Except DecodeError Instr :=
  if h.extractLsb' 0 32 ≠ Const.magicWord then .error .badMagic
  else if (h.extractLsb' 48 16).toInt = 0 then .ok (.hvDim0 (h.extractLsb' 32 16))
  else if (h.extractLsb' 48 16).toInt = 1 then .ok (.hvDim1 (h.extractLsb' 32 16))
  else if (h.extractLsb' 48 16).toInt = 2 then .ok (.hvDim2 (h.extractLsb' 32 16))
  else .error .badDimension

/-- F-GC: UNP.LOAD at every value that occurs, and UNP.EXPAND in addition at the last byte of a group (R81). -/
def decodeGc (g : BitVec 3) : Except DecodeError (List Instr) :=
  if g = Const.grpLast then .ok [.unpLoad g, .unpExpand]
  else if g.toNat < Const.grpIn then .ok [.unpLoad g]
  else .error .gcUnreachable

/-- F-XY: both address operations, whatever the word (R81; R83: F-XY has no illegal value). -/
def decodeXy (w : BitVec 20) : List Instr :=
  [.adecMap (w.extractLsb' 16 4) (w.extractLsb' 10 6) (w.extractLsb' 5 5) (w.extractLsb' 0 5),
   .adecNext (w.extractLsb' 16 4) (w.extractLsb' 10 6) (w.extractLsb' 5 5) (w.extractLsb' 0 5)]

/-- F-IDX: the four ranges, which cover all 256 values and do not overlap (R73, R81): PAL_LEN parts the ROM from the
fallback, the top bits part each in two. -/
def decodeIdx (w : BitVec 8) : Instr :=
  if w.toNat < Const.palLen then
    if w.extractLsb' 6 2 = 0b00 then .palRomLo (w.extractLsb' 0 6) else .palRomHi (w.extractLsb' 0 5)
  else if w.extractLsb' 7 1 = 0b0 then .palWhite7 (w.extractLsb' 0 5)
  else .palWhite8 (w.extractLsb' 0 7)

/-- F-CMP: the composer operation by mode and, in stencil mode, by the whole colour (R76, R82). -/
def decodeCmp (c : BitVec 25) : Instr :=
  if c.extractLsb' 24 1 = 0 then .compOpaque (c.extractLsb' 0 24)
  else if c.extractLsb' 0 24 = Const.stBlackRgb then .compStBlack
  else if c.extractLsb' 0 24 = Const.stWhiteRgb then .compStWhite
  else .compStClear (c.extractLsb' 0 24)

/-- F-EVT from its three bits: every row whose mask and match fit, rows with a greater mask first. The state conditions of R81 then leave at most one
(R78, R171; `Sys2Proof.Machine.stepOp`). -/
def decodeEvtBits (rst inValid outReady : Bool) : List Instr :=
  if rst then [.seqReset inValid outReady]
  else (if inValid then [.seqInbyte outReady] else []) ++ (if outReady then [.seqOutpix inValid] else []) ++
    [.seqPadbyte inValid outReady]

/-- F-EVT, `{rst, in_valid, out_ready}` (R78). -/
def decodeEvt (e : BitVec 3) : List Instr :=
  decodeEvtBits (e.getLsbD 2) (e.getLsbD 1) (e.getLsbD 0)

/-- The operations that the word `w` of format `f` selects. -/
def decode : (f : Format) → BitVec f.width → Except DecodeError (List Instr)
  | .off, w => (decodeOff w).map fun i => [i]
  | .hdr, w => (decodeHdr w).map fun i => [i]
  | .gc, w => decodeGc w
  | .xy, w => .ok (decodeXy w)
  | .idx, w => .ok [decodeIdx w]
  | .cmp, w => .ok [decodeCmp w]
  | .evt, w => .ok (decodeEvt w)

/-- The word of an operation, in its format (R70 to R78). -/
def encode : (i : Instr) → BitVec i.format.width
  | .hvMagic p => (0#4 ++ p : BitVec 6)
  | .hvDimlo => Const.dimLoPos
  | .hvDimhi => Const.dimHiPos
  | .hvSkip p => p
  | .hvDim0 ign => (0#16 ++ ign ++ Const.magicWord : BitVec 64)
  | .hvDim1 ign => (1#16 ++ ign ++ Const.magicWord : BitVec 64)
  | .hvDim2 ign => (2#16 ++ ign ++ Const.magicWord : BitVec 64)
  | .unpLoad g => g
  | .unpExpand => Const.grpLast
  | .adecMap k v y x => (k ++ v ++ y ++ x : BitVec 20)
  | .adecNext k v y x => (k ++ v ++ y ++ x : BitVec 20)
  | .palRomLo i => (0b00#2 ++ i : BitVec 8)
  | .palRomHi i => (0b010#3 ++ i : BitVec 8)
  | .palWhite7 i => (0b011#3 ++ i : BitVec 8)
  | .palWhite8 i => (1#1 ++ i : BitVec 8)
  | .compOpaque c => (0#1 ++ c : BitVec 25)
  | .compStBlack => (1#1 ++ Const.stBlackRgb : BitVec 25)
  | .compStWhite => (1#1 ++ Const.stWhiteRgb : BitVec 25)
  | .compStClear c => (1#1 ++ c : BitVec 25)
  | .seqReset v r => (1#1 ++ BitVec.ofBool v ++ BitVec.ofBool r : BitVec 3)
  | .seqInbyte r => (0#1 ++ 1#1 ++ BitVec.ofBool r : BitVec 3)
  | .seqPadbyte v r => (0#1 ++ BitVec.ofBool v ++ BitVec.ofBool r : BitVec 3)
  | .seqOutpix v => (0#1 ++ BitVec.ofBool v ++ 1#1 : BitVec 3)

/-- A row of the operation map: `(value &&& mask) = match` selects it (R81). -/
structure OpRow where
  mnemonic : String
  format : Format
  mask : Nat
  value : Nat
  deriving DecidableEq, Repr

/-- The row of each operation, as R81 and spec/opcode_table.json print it: the numbers are the printed table's own, and no
step reads them; that the decoders, which go by the named constants, agree with them is stated and proved. -/
def Instr.row : Instr → OpRow
  | .hvMagic _ => ⟨"HV.MAGIC", .off, 0x3C, 0x00⟩
  | .hvDimlo => ⟨"HV.DIMLO", .off, 0x3F, 0x06⟩
  | .hvDimhi => ⟨"HV.DIMHI", .off, 0x3F, 0x07⟩
  | .hvSkip _ => ⟨"HV.SKIP", .off, 0x00, 0x00⟩
  | .hvDim0 _ => ⟨"HV.DIM0", .hdr, 0xFFFF0000FFFFFFFF, 0x0000000042584950⟩
  | .hvDim1 _ => ⟨"HV.DIM1", .hdr, 0xFFFF0000FFFFFFFF, 0x0001000042584950⟩
  | .hvDim2 _ => ⟨"HV.DIM2", .hdr, 0xFFFF0000FFFFFFFF, 0x0002000042584950⟩
  | .unpLoad _ => ⟨"UNP.LOAD", .gc, 0x0, 0x0⟩
  | .unpExpand => ⟨"UNP.EXPAND", .gc, 0x7, 0x6⟩
  | .adecMap _ _ _ _ => ⟨"ADEC.MAP", .xy, 0x00000, 0x00000⟩
  | .adecNext _ _ _ _ => ⟨"ADEC.NEXT", .xy, 0x00000, 0x00000⟩
  | .palRomLo _ => ⟨"PAL.ROM_LO", .idx, 0xC0, 0x00⟩
  | .palRomHi _ => ⟨"PAL.ROM_HI", .idx, 0xE0, 0x40⟩
  | .palWhite7 _ => ⟨"PAL.WHITE_7", .idx, 0xE0, 0x60⟩
  | .palWhite8 _ => ⟨"PAL.WHITE_8", .idx, 0x80, 0x80⟩
  | .compOpaque _ => ⟨"COMP.OPAQUE", .cmp, 0x1000000, 0x0000000⟩
  | .compStBlack => ⟨"COMP.ST_BLACK", .cmp, 0x1FFFFFF, 0x1211E1F⟩
  | .compStWhite => ⟨"COMP.ST_WHITE", .cmp, 0x1FFFFFF, 0x1FFFFFF⟩
  | .compStClear _ => ⟨"COMP.ST_CLEAR", .cmp, 0x1000000, 0x1000000⟩
  | .seqReset _ _ => ⟨"SEQ.RESET", .evt, 0x4, 0x4⟩
  | .seqInbyte _ => ⟨"SEQ.INBYTE", .evt, 0x6, 0x2⟩
  | .seqPadbyte _ _ => ⟨"SEQ.PADBYTE", .evt, 0x4, 0x0⟩
  | .seqOutpix _ => ⟨"SEQ.OUTPIX", .evt, 0x5, 0x1⟩

/-- The operation map of R81, row for row. -/
def opTable : List OpRow :=
  [Instr.hvMagic 0, .hvDimlo, .hvDimhi, .hvSkip 4, .hvDim0 0, .hvDim1 0, .hvDim2 0, .unpLoad 0, .unpExpand,
   .adecMap 0 0 0 0, .adecNext 0 0 0 0, .palRomLo 0, .palRomHi 0, .palWhite7 0, .palWhite8 0, .compOpaque 0,
   .compStBlack, .compStWhite, .compStClear 0, .seqReset false false, .seqInbyte false, .seqPadbyte false false,
   .seqOutpix false].map Instr.row

/-- `(value &&& mask) = match` (R81). -/
def OpRow.selects (r : OpRow) (w : Nat) : Bool := w &&& r.mask == r.value

/-- The number of 1 bits in the row's mask, which decides between two matching rows (R82). -/
def OpRow.maskBits (r : OpRow) : Nat := (List.range 64).countP fun k => r.mask.testBit k

/-- An 8-bit word that does not say its format (log entry 8): 0 to 5 are read as control inputs F-EVT, 6 and 7 as the
header offsets of the two dimension bytes, anything above as an index byte. -/
def decodeShort (w : Nat) : Option Instr :=
  if w = Const.dimOff ∨ w = Const.dimOff + 1 then (decodeOff (BitVec.ofNat 6 w)).toOption
  else if w < Const.dimOff then (decodeEvt (BitVec.ofNat 3 w)).head?
  else some (decodeIdx (BitVec.ofNat 8 w))

/-- The operation read from a table word of `nbits` bits whose value is `w` (log entry 8): 64 bits are F-HDR, 32 (or 25)
F-CMP, 24 (or 20) F-XY, 6 F-OFF, 8 (or 3) a short word. A value too wide for its format is no word of it. -/
def decodeTableWord (nbits w : Nat) : Option Instr :=
  if nbits = 64 ∧ w < 2 ^ 64 then (decodeHdr (BitVec.ofNat 64 w)).toOption
  else if (nbits = 32 ∨ nbits = 25) ∧ w < 2 ^ 25 then some (decodeCmp (BitVec.ofNat 25 w))
  else if (nbits = 24 ∨ nbits = 20) ∧ w < 2 ^ 20 then (decodeXy (BitVec.ofNat 20 w)).head?
  else if nbits = 6 ∧ w < 2 ^ 6 then (decodeOff (BitVec.ofNat 6 w)).toOption
  else if (nbits = 8 ∧ w < 2 ^ 8) ∨ (nbits = 3 ∧ w < 2 ^ 3) then decodeShort w
  else none

end Sys2Proof
end

