-- ==== Sys2Proof/Machine/State.lean ====
section
/-! DEFINITION. Machine/State.lean: the state of one PIXCORE instance (10_state.md), the reasons a step can stop, and the
state after reset. The first sixteen fields of `State` are the registers of rule R20 under their own names; the last six
are the model's own (INVENTORY.md, '## State'). -/

namespace Sys2Proof.Machine

/-- PHASE, typed as the five values that occur (R22, R79). -/
inductive Phase where
  | hdr
  | body
  | emit
  | done
  | err
  deriving DecidableEq, Repr

/-- MODE: 0 opaque, 1 stencil (R27). -/
inductive Mode where
  | opaqueMode
  | stencilMode
  deriving DecidableEq, Repr

/-- ERRC, the cause of the trap taken (R29, R180). -/
inductive ErrCause where
  | noCause
  | badMagic
  | badDimension
  | truncatedHeader
  deriving DecidableEq, Repr

/-- The nets between the sub-blocks inside one step, the MODEL's own (log entry 3): the byte of the step, the IDXBUF
address and entry of ADEC.MAP, the colour of PAL, the word of COMP. -/
structure Wires where
  d : Byte
  addr : BitVec 10
  idx : Byte
  rgb : Rgb
  pix : Pixel
  deriving DecidableEq, Repr

/-- What the input ports show at one rising clock edge (R34), and `go`: whether the block asserts a permitted `in_ready`
or `out_valid`, or performs an enabled pad, at that edge (R35, R38, R211; log entry 4). -/
structure Edge where
  rst : Bool
  cfgStencil : Bool
  inValid : Bool
  inData : Byte
  inLast : Bool
  outReady : Bool
  go : Bool
  deriving DecidableEq, Repr

/-- One transfer of the output channel: `out_data` and `out_last` (R166). -/
structure Beat where
  data : Pixel
  last : Bool
  deriving DecidableEq, Repr

/-- IDXBUF as (address, byte) cells, addresses rising, no cell equal to what an unlisted entry reads as (R31). -/
abbrev Idxbuf := List Host.Cell

structure State where
  /-- PHASE (R22). -/
  phase : Phase
  /-- HPOS (R23). -/
  hpos : BitVec 6
  /-- MAGOK (R26). -/
  magok : Bool
  /-- DIMLO (R30). -/
  dimlo : Byte
  /-- MODE (R27). -/
  mode : Mode
  /-- VSIZE (R28). -/
  vsize : BitVec 6
  /-- SKIP (R28). -/
  skip : BitVec 4
  /-- EOF (R26). -/
  eof : Bool
  /-- SHORT (R26). -/
  short : Bool
  /-- ERRC (R29). -/
  errc : ErrCause
  /-- B[0..6] (R21). -/
  b : Vector Byte 7
  /-- GCNT (R24). -/
  gcnt : BitVec 3
  /-- GIDX (R24). -/
  gidx : BitVec 8
  /-- IDXBUF[0..1023] (R31). -/
  idxbuf : Idxbuf
  /-- X (R25). -/
  x : BitVec 5
  /-- Y (R25). -/
  y : BitVec 5
  /-- The model's own: the nets inside a step (log entry 3). -/
  wires : Wires
  /-- The model's own: what the ports show at the coming clock edges, the next one first (log entry 4). -/
  edges : List Edge
  /-- The model's own: the bytes accepted in this frame, File(0) first (R10, R52; log entry 5). -/
  file : List Byte
  /-- The model's own: the output transfers of this frame, the first one first (log entry 5). -/
  pixels : List Beat
  /-- The model's own: the output transfers of the frames before the last reset (R160; log entry 5). -/
  earlier : List Beat
  /-- The model's own: clock edges passed; it feeds the free values of idle outputs (log entry 6). -/
  cycle : Nat
  deriving DecidableEq, Repr

/-- Why the machine stops with a fault. -/
inductive Fault where
  /-- An IDXBUF address outside 0..1023 (R33, R57). Raised by `idxbufRead`, in ADEC.MAP, when SKIP, X and Y are not those of
  one raster; no reachable state forms one. Safe. -/
  | idxbufAddress (a : Nat)
  deriving DecidableEq, Repr

/-- Why an operation is given no meaning. -/
inductive Refusal where
  /-- The arm of `exec` for an operation with no meaning yet; no arm of this model answers it. Safe. -/
  | notModelled (mnemonic : String)
  /-- A register value that no row of the format takes: HPOS of 32 or more in HDR, GCNT 7 in a byte step (U18 "refuse").
  Raised by SEQ.INBYTE, SEQ.PADBYTE and UNP.LOAD. No reachable state holds one. Safe. -/
  | noRow (f : Format)
  /-- GIDX of 128 or more when a body byte or a group would be stored (U18 "refuse"; R121). Raised by UNP.LOAD and
  UNP.EXPAND. No reachable state does so. Safe. -/
  | gidxUnreachable
  /-- (VSIZE, SKIP) outside the three pairs when a pixel is addressed (U18 "refuse"). Raised by ADEC.MAP and ADEC.NEXT. No
  reachable state does so. Safe. -/
  | profileUnreachable
  deriving DecidableEq, Repr

/-- An edge at which the host drives nothing and takes nothing, and the block is willing (log entry 4). -/
def Edge.idle : Edge :=
  { rst := false, cfgStencil := false, inValid := false, inData := 0, inLast := false, outReady := false, go := true }

/-- What the ports show at the next rising clock edge. -/
def State.edge (s : State) : Edge := s.edges.headD Edge.idle

/-- The machine right after reset (R40, R203). B[] and IDXBUF are not written by reset and hold the values that log
entries 1 and 2 name; the model's own fields are empty or zero (log entries 3 to 6). -/
def State.reset : State :=
  { phase := .hdr, hpos := 0, magok := true, dimlo := 0, mode := .opaqueMode, vsize := 0, skip := 0, eof := false,
    short := false, errc := .noCause, b := #v[0, 0, 0, 0, 0, 0, 0], gcnt := 0, gidx := 0, idxbuf := [], x := 0, y := 0,
    wires := { d := 0, addr := 0, idx := 0, rgb := 0, pix := 0 }, edges := [], file := [], pixels := [], earlier := [],
    cycle := 0 }

end Sys2Proof.Machine
end

