-- ==== Sys2Proof/Machine/Operands.lean ====
section
/-! DEFINITION. Machine/Operands.lean: how each multi-bit operand is put together (30_encoding.md rule R80), and the words
of the formats as the sequencer forms them from registers and nets (R70 to R78). -/

namespace Sys2Proof.Machine

/-- The 16-bit dimension code: file byte 7 over file byte 6 (R50, R80 a). -/
def code16 (hi lo : Byte) : BitVec 16 := hi ++ lo

/-- F-HDR as HV.DIMHI matches it: the magic is known good at offset 7, and nothing reads file bytes 4 and 5 (R71, R103). -/
def hdrWord (code : BitVec 16) : BitVec 64 := code ++ 0#16 ++ Const.magicWord

/-- F-GRP: seven body bytes, the first one lowest (R51, R72). -/
def groupWord (b0 b1 b2 b3 b4 b5 b6 : Byte) : BitVec 56 := b6 ++ b5 ++ b4 ++ b3 ++ b2 ++ b1 ++ b0

/-- Lane `k` of a group as a field of F-GRP, zero-extended to a byte (R51, R72, R124). -/
def laneField (g : BitVec 56) (k : Nat) : Byte := (g.extractLsb' (7 * k) 7).setWidth 8

/-- The eight lanes of a group by the source's formulas, o0 first (R123; C1: o7 is `b6 >> 1`). -/
def expandLanes (b0 b1 b2 b3 b4 b5 b6 : Byte) : Vector Byte 8 :=
  #v[b0 &&& 0x7F,
     ((b1 &&& 0x3F) <<< 1) ||| (b0 >>> 7),
     ((b2 &&& 0x1F) <<< 2) ||| (b1 >>> 6),
     ((b3 &&& 0x0F) <<< 3) ||| (b2 >>> 5),
     ((b4 &&& 0x07) <<< 4) ||| (b3 >>> 4),
     ((b5 &&& 0x03) <<< 5) ||| (b4 >>> 3),
     ((b6 &&& 0x01) <<< 6) ||| (b5 >>> 2),
     b6 >>> 1]

/-- The body offset of the byte that the next byte step of BODY takes (R24). -/
def bodyOffset (gidx : BitVec 8) (gcnt : BitVec 3) : Nat := Const.grpIn * gidx.toNat + gcnt.toNat

/-- The IDXBUF address of the first entry of group GIDX (R53, R80 c). -/
def groupBase (gidx : BitVec 8) : Nat := Const.grpOut * gidx.toNat

/-- The IDXBUF address of raster position (x, y): unsigned and exact (R131). -/
def mapAddr (skip : BitVec 4) (y x : BitVec 5) : Nat :=
  skip.toNat + (skip.toNat + y.toNat) * Const.bufStride + x.toNat

/-- The same address as row over column, with no carry between the parts (R80 d, R131). -/
def mapConcat (skip : BitVec 4) (y x : BitVec 5) : BitVec 10 :=
  (skip.setWidth 5 + y) ++ (skip.setWidth 5 + x)

/-- `RomRead` (R10), with the palette as an argument. -/
def romRead (pal : Nat → Rgb) (idx : Byte) : Rgb := pal idx.toNat

/-- The bit of MODE in F-CMP: 0 opaque, 1 stencil (R27, R76). -/
def modeBit : Mode → BitVec 1
  | .opaqueMode => 0
  | .stencilMode => 1

/-- MODE from `cfg_stencil` (R27). -/
def modeOf (cfgStencil : Bool) : Mode := if cfgStencil then .stencilMode else .opaqueMode

/-- F-CMP (R76). -/
def cmpWord (m : Mode) (rgb : Rgb) : BitVec 25 := modeBit m ++ rgb

/-- The opaque-mode pixel: alpha 0xFF over the colour (R80 f, R151). -/
def opaquePixel (rgb : Rgb) : Pixel := Const.alphaOpaque ++ rgb

/-- F-EVT, `{rst, in_valid, out_ready}` (R78). -/
def evtWord (e : Edge) : BitVec 3 := BitVec.ofBool e.rst ++ BitVec.ofBool e.inValid ++ BitVec.ofBool e.outReady

end Sys2Proof.Machine
end

