-- ==== Sys2Proof/Machine/Flags.lean ====
section
/-! DEFINITION. Machine/Flags.lean: every one-bit result the block computes: MAGOK's update, the enabling conditions behind
`in_ready`, `out_valid` and a pad step, `out_last`, and the numeric codes of PHASE and ERRC. -/

namespace Sys2Proof.Machine

/-- MAGOK after byte `d` at magic offset `p` (40_header_validator.md R101). -/
def magokNext (magok : Bool) (d : Byte) (p : BitVec 2) : Bool := magok && (d == Const.magic p)

/-- The state in which `in_ready` may be 1 (10_state.md R35, 45_sequencer.md R161). -/
def inPermitted (s : State) : Bool := (s.phase == .hdr || s.phase == .body) && !s.eof

/-- The state in which a pad step is enabled (R164). -/
def padPermitted (s : State) : Bool := s.phase == .body && s.eof

/-- The state in which `out_valid` may be 1 (R35, R166). -/
def outPermitted (s : State) : Bool := s.phase == .emit

/-- `in_ready` at the next edge: permitted, and asserted by the block (R35, R211). -/
def inReady (s : State) : Bool := inPermitted s && s.edge.go

/-- A pad step is performed at the next edge, unless the block is reset (R164, R211). -/
def padReady (s : State) : Bool := padPermitted s && s.edge.go

/-- `out_valid` at the next edge: permitted, and asserted by the block (R35, R211). -/
def outValid (s : State) : Bool := outPermitted s && s.edge.go

/-- The position is the last of the raster (R134, R135, R166). -/
def lastPosition (vsize : BitVec 6) (y x : BitVec 5) : Bool :=
  x.toNat + 1 == vsize.toNat && y.toNat + 1 == vsize.toNat

/-- The numeric code of PHASE (R79). -/
def Phase.code : Phase → BitVec 3
  | .hdr => 0
  | .body => 1
  | .emit => 2
  | .done => 3
  | .err => 4

/-- The numeric code of ERRC (R79, R180). -/
def ErrCause.code : ErrCause → BitVec 2
  | .noCause => 0
  | .badMagic => 1
  | .badDimension => 2
  | .truncatedHeader => 3

end Sys2Proof.Machine
end

