-- ==== Sys2Proof/Machine/Ops.lean ====
section
/-! DEFINITION. Machine/Ops.lean: the named operations over IDXBUF and over the state that the meanings share: the one
memory's reads and writes in canonical form, trap entry, and the register updates of a step. -/

namespace Sys2Proof.Machine

/-! ### IDXBUF (10_state.md R31, 20_memory.md R53, R58) -/

/-- What an entry that is not listed reads as: the contents of IDXBUF before the frame writes it, which the spec leaves
open (R40, U10). DESIGN CHOICE 0x00, log entry 1. -/
def bufDefault : Byte := 0

/-- The entry at address `a`. -/
def bufGet : Idxbuf → Nat → Byte
  | [], _ => bufDefault
  | (k, u) :: m, a => if a = k then u else bufGet m a

/-- Write `v` at address `a`, keeping the canonical form: a cell equal to the default is not listed. -/
def bufSet : Idxbuf → Nat → Byte → Idxbuf
  | [], a, v => if v = bufDefault then [] else [(a, v)]
  | (k, u) :: m, a, v =>
    if a < k then (if v = bufDefault then (k, u) :: m else (a, v) :: (k, u) :: m)
    else if a = k then (if v = bufDefault then m else (a, v) :: m)
    else (k, u) :: bufSet m a v

/-- Write consecutive entries from address `a` on: `MemWrite(a, 8, v)` of R10 for the eight lanes of a group. -/
def bufStore : Idxbuf → Nat → List Byte → Idxbuf
  | m, _, [] => m
  | m, a, v :: vs => bufStore (bufSet m a v) (a + 1) vs

/-- `MemRead(a, 1)` of R10: the addresses of IDXBUF are 0..1023 and no other exists (R33). -/
def idxbufRead (m : Idxbuf) (a : Nat) : Option Byte := if a < Const.bufLen then some (bufGet m a) else none

/-- Cells from address `lo` on, rising, inside IDXBUF, none equal to the default. -/
def Memory.wfFrom : Nat → Idxbuf → Bool
  | _, [] => true
  | lo, (k, u) :: m => decide (lo ≤ k ∧ k < Const.bufLen ∧ u ≠ bufDefault) && Memory.wfFrom (k + 1) m

/-- The canonical form of IDXBUF. -/
def Memory.wf (m : Idxbuf) : Bool := Memory.wfFrom 0 m

/-! ### Sequencing of the parts of a step -/

/-- The parts of one step in order: a fault or a refusal of the first ends it. -/
def andThen (o : Host.Outcome State Fault Refusal) (k : State → Host.Outcome State Fault Refusal) :
    Host.Outcome State Fault Refusal :=
  match o with
  | .next s => k s
  | .fault r => .fault r
  | .refused r => .refused r

/-! ### Trap entry (60_exceptions.md R186). There is no trap return (R187): SEQ.RESET alone leaves ERR. -/

/-- `raise <cause>`: PHASE <- ERR, ERRC <- its code; nothing is saved and there is no handler. -/
def State.trapEntry (c : ErrCause) (s : State) : State := { s with phase := .err, errc := c }

/-! ### Register updates -/

/-- The byte of the step, as the header validator and the unpacker see it (R100, R120). -/
def State.withByte (d : Byte) (s : State) : State := { s with wires := { s.wires with d := d } }

/-- An input transfer: the byte on `in_data` is consumed and becomes the byte of the step (R52, R59). -/
def State.acceptByte (s : State) : State :=
  { s.withByte s.edge.inData with file := s.file ++ [s.edge.inData] }

/-- VSIZE and SKIP together (R28). -/
def State.setProfile (p : Const.Profile) (s : State) : State := { s with vsize := p.vsize, skip := p.skip }

/-- The result of ADEC.MAP: F-ADDR and the entry read (R131). -/
def State.driveMap (a : BitVec 10) (i : Byte) (s : State) : State := { s with wires := { s.wires with addr := a, idx := i } }

/-- The result of PAL (R140). -/
def State.driveRgb (c : Rgb) (s : State) : State := { s with wires := { s.wires with rgb := c } }

/-- The result of COMP (R150). -/
def State.drivePix (p : Pixel) (s : State) : State := { s with wires := { s.wires with pix := p } }

/-- An output transfer of the word on the COMP net (R166). -/
def State.transfer (last : Bool) (s : State) : State :=
  { s with pixels := s.pixels ++ [{ data := s.wires.pix, last := last }] }

/-- A clock edge has passed: the host's next port values come up (R11, R34). -/
def State.tick (s : State) : State := { s with edges := s.edges.tail, cycle := s.cycle + 1 }

end Sys2Proof.Machine
end

