-- ==== Sys2Proof/Machine/Adec.lean ====
section
/-! DEFINITION. Machine/Adec.lean: the address decoder ADEC (42_address_decoder.md). -/

namespace Sys2Proof.Machine

/-- ADEC.MAP (R131): a = SKIP + (SKIP + Y) 32 + X, and the entry of IDXBUF at it. A profile outside DIMTAB is refused
(U18); an address outside IDXBUF faults (R33). -/
def execAdecMap (skip : BitVec 4) (vsize : BitVec 6) (y x : BitVec 5) (s : State) : Host.Outcome State Fault Refusal :=
  if Const.legalProfile vsize skip then
    match idxbufRead s.idxbuf (mapAddr skip y x) with
    | some i => .next (s.driveMap (BitVec.ofNat 10 (mapAddr skip y x)) i)
    | none => .fault (.idxbufAddress (mapAddr skip y x))
  else .refused .profileUnreachable

/-- ADEC.NEXT (R134): the next position in row-major order; after the last one PHASE <- DONE. -/
def execAdecNext (skip : BitVec 4) (vsize : BitVec 6) (y x : BitVec 5) (s : State) : Host.Outcome State Fault Refusal :=
  if Const.legalProfile vsize skip then
    if x.toNat + 1 ≠ vsize.toNat then .next { s with x := x + 1 }
    else if y.toNat + 1 ≠ vsize.toNat then .next { s with x := 0, y := y + 1 }
    else .next { s with x := 0, y := 0, phase := .done }
  else .refused .profileUnreachable

end Sys2Proof.Machine
end

