-- ==== Sys2Proof/Machine/Comp.lean ====
section
/-! DEFINITION. Machine/Comp.lean: the output composer COMP (44_composer.md). -/

namespace Sys2Proof.Machine

/-- COMP as one function of mode and colour (R150). -/
def compPixel (m : Mode) (rgb : Rgb) : Pixel :=
  match m with
  | .opaqueMode => opaquePixel rgb
  | .stencilMode =>
    if rgb = Const.stBlackRgb then Const.pixBlack
    else if rgb = Const.stWhiteRgb then Const.pixWhite
    else Const.pixClear

/-- COMP.OPAQUE (R151): pix = {0xFF, rgb}. -/
def execCompOpaque (rgb : Rgb) (s : State) : Host.Outcome State Fault Refusal :=
  .next (s.drivePix (opaquePixel rgb))

/-- COMP.ST_BLACK (R152). -/
def execCompStBlack (s : State) : Host.Outcome State Fault Refusal :=
  .next (s.drivePix Const.pixBlack)

/-- COMP.ST_WHITE (R153). -/
def execCompStWhite (s : State) : Host.Outcome State Fault Refusal :=
  .next (s.drivePix Const.pixWhite)

/-- COMP.ST_CLEAR (R154): the colour is discarded. -/
def execCompStClear (_rgb : Rgb) (s : State) : Host.Outcome State Fault Refusal :=
  .next (s.drivePix Const.pixClear)

/-- The composer operation that {MODE, rgb} selects (R81, R82, format F-CMP). -/
def compPart (c : BitVec 25) (s : State) : Host.Outcome State Fault Refusal :=
  match decodeCmp c with
  | .compOpaque rgb => execCompOpaque rgb s
  | .compStBlack => execCompStBlack s
  | .compStWhite => execCompStWhite s
  | .compStClear rgb => execCompStClear rgb s
  | _ => .refused (.noRow .cmp)

end Sys2Proof.Machine
end

