-- ==== Sys2Proof/Machine/Hv.lean ====
section
/-! DEFINITION. Machine/Hv.lean: the header validator HV (40_header_validator.md). Each operation reads the byte of the
step on `wires.d`. -/

namespace Sys2Proof.Machine

/-- HV.MAGIC (R101): MAGOK <- MAGOK & (d == MAGIC[p]); at the last magic byte a mismatch raises BadMagic. -/
def execHvMagic (p : BitVec 2) (s : State) : Host.Outcome State Fault Refusal :=
  if p = Const.magicLast ∧ magokNext s.magok s.wires.d p = false then .next ({ s with magok := false }.trapEntry .badMagic)
  else .next { s with magok := magokNext s.magok s.wires.d p }

/-- HV.DIMLO (R102): DIMLO <- d. -/
def execHvDimlo (s : State) : Host.Outcome State Fault Refusal :=
  .next { s with dimlo := s.wires.d }

/-- HV.DIM0 (R104). -/
def execHvDim0 (_ign : BitVec 16) (s : State) : Host.Outcome State Fault Refusal :=
  .next (s.setProfile Const.dim0)

/-- HV.DIM1 (R105). -/
def execHvDim1 (_ign : BitVec 16) (s : State) : Host.Outcome State Fault Refusal :=
  .next (s.setProfile Const.dim1)

/-- HV.DIM2 (R106). -/
def execHvDim2 (_ign : BitVec 16) (s : State) : Host.Outcome State Fault Refusal :=
  .next (s.setProfile Const.dim2)

/-- HV.DIMHI (R103): the code {d, DIMLO} selects HV.DIM0, HV.DIM1 or HV.DIM2; any other code raises BadDimension. -/
def execHvDimhi (s : State) : Host.Outcome State Fault Refusal :=
  match decodeHdr (hdrWord (code16 s.wires.d s.dimlo)) with
  | .ok (.hvDim0 ign) => execHvDim0 ign s
  | .ok (.hvDim1 ign) => execHvDim1 ign s
  | .ok (.hvDim2 ign) => execHvDim2 ign s
  | _ => .next (s.trapEntry .badDimension)

/-- HV.SKIP (R107): the byte is discarded. -/
def execHvSkip (_p : BitVec 6) (s : State) : Host.Outcome State Fault Refusal :=
  .next s

/-- The header operation that the offset `p` selects (R81, format F-OFF); offsets of 32 or more never occur (U18). -/
def headerPart (p : BitVec 6) (s : State) : Host.Outcome State Fault Refusal :=
  match decodeOff p with
  | .ok (.hvMagic q) => execHvMagic q s
  | .ok .hvDimlo => execHvDimlo s
  | .ok .hvDimhi => execHvDimhi s
  | .ok (.hvSkip q) => execHvSkip q s
  | _ => .refused (.noRow .off)

end Sys2Proof.Machine
end

