-- ==== Sys2Proof/Machine/Pal.lean ====
section
/-! DEFINITION. Machine/Pal.lean: the palette ROM PAL (43_palette_rom.md). -/

namespace Sys2Proof.Machine

/-- PAL (R140), with the palette as an argument: the ROM below 96, white from 96 on. -/
def palWith (pal : Nat → Rgb) (idx : Byte) : Rgb :=
  if idx.toNat < Const.palLen then romRead pal idx else Const.palFallback

/-- PAL over this block's open palette (R140, R145). -/
def palColour (idx : Byte) : Rgb := palWith Const.palette idx

/-- PAL.ROM_LO (R141): idx 0..63. -/
def execPalRomLo (i : BitVec 6) (s : State) : Host.Outcome State Fault Refusal :=
  .next (s.driveRgb (romRead Const.palette (0b00#2 ++ i)))

/-- PAL.ROM_HI (R142): idx 64..95. -/
def execPalRomHi (i : BitVec 5) (s : State) : Host.Outcome State Fault Refusal :=
  .next (s.driveRgb (romRead Const.palette (0b010#3 ++ i)))

/-- PAL.WHITE_7 (R143): idx 96..127; the ROM is not read. -/
def execPalWhite7 (_i : BitVec 5) (s : State) : Host.Outcome State Fault Refusal :=
  .next (s.driveRgb Const.palFallback)

/-- PAL.WHITE_8 (R144): idx 128..255; the ROM is not read. -/
def execPalWhite8 (_i : BitVec 7) (s : State) : Host.Outcome State Fault Refusal :=
  .next (s.driveRgb Const.palFallback)

/-- The palette operation that the index selects (R81, format F-IDX). -/
def palPart (idx : Byte) (s : State) : Host.Outcome State Fault Refusal :=
  match decodeIdx idx with
  | .palRomLo i => execPalRomLo i s
  | .palRomHi i => execPalRomHi i s
  | .palWhite7 i => execPalWhite7 i s
  | .palWhite8 i => execPalWhite8 i s
  | _ => .refused (.noRow .idx)

end Sys2Proof.Machine
end

