-- ==== Sys2Proof/Machine/Unp.lean ====
section
/-! DEFINITION. Machine/Unp.lean: the 7-bit bit-unpacker UNP (41_unpacker.md). Both operations read the byte of the step on
`wires.d`. -/

namespace Sys2Proof.Machine

/-- UNP.EXPAND (R123): the eight lanes of B[0..5] and the byte of the step go to IDXBUF[8 GIDX .. 8 GIDX + 7]. -/
def execUnpExpand (s : State) : Host.Outcome State Fault Refusal :=
  if s.gidx.toNat < Const.nGroups then
    .next { s with
      idxbuf := bufStore s.idxbuf (groupBase s.gidx)
        (expandLanes s.b[0] s.b[1] s.b[2] s.b[3] s.b[4] s.b[5] s.wires.d).toList }
  else .refused .gidxUnreachable

/-- The counters after the seventh byte of a group: GCNT <- 0, GIDX <- GIDX + 1, and EMIT after group 127 (R24, R121). -/
def State.endGroup (s : State) : State :=
  { s with
    gcnt := 0
    gidx := s.gidx + 1
    phase := if s.gidx.toNat + 1 = Const.nGroups then .emit else s.phase }

/-- UNP.LOAD (R121): B[GCNT] <- d; at GCNT = 6 the group is expanded and the counters move on, else GCNT + 1. -/
def execUnpLoad (gcnt : BitVec 3) (s : State) : Host.Outcome State Fault Refusal :=
  if s.gidx.toNat < Const.nGroups then
    let s1 := { s with b := s.b.setIfInBounds gcnt.toNat s.wires.d }
    if gcnt.toNat + 1 < Const.grpIn then .next { s1 with gcnt := gcnt + 1 }
    else if gcnt.toNat + 1 = Const.grpIn then andThen (execUnpExpand s1) fun s2 => .next s2.endGroup
    else .refused (.noRow .gc)
  else .refused .gidxUnreachable

/-- The unpacker's part of a byte step in BODY: the counter GCNT selects UNP.LOAD, which expands at 6 itself (R81, R121);
GCNT 7 never occurs (U18). -/
def bodyPart (s : State) : Host.Outcome State Fault Refusal :=
  match decodeGc s.gcnt with
  | .ok (.unpLoad g :: _) => execUnpLoad g s
  | _ => .refused (.noRow .gc)

end Sys2Proof.Machine
end

