-- ==== Sys2Proof/Machine/Seq.lean ====
section
/-! DEFINITION. Machine/Seq.lean: the sequencer SEQ (45_sequencer.md): the four steps, and which of them the control inputs
and the state select at a clock edge. A step whose enabling condition does not hold has no effect (R161, R170). -/

namespace Sys2Proof.Machine

/-- SEQ.RESET (R160): every register of R40 to its reset value; B[] and IDXBUF are not written. The frame's record is closed
(R12); what was transferred stays transferred. -/
def execSeqReset (_inValid _outReady : Bool) (s : State) : Host.Outcome State Fault Refusal :=
  .next { s with
    phase := .hdr, hpos := 0, magok := true, dimlo := 0, mode := .opaqueMode, vsize := 0, skip := 0, eof := false,
    short := false, errc := .noCause, gcnt := 0, gidx := 0, x := 0, y := 0,
    file := [], pixels := [], earlier := s.earlier ++ s.pixels }

/-- MODE is latched with file offset 0 and at no other time (R27, R167). -/
def State.latchMode (s : State) : State :=
  { s with mode := if s.hpos = 0 then modeOf s.edge.cfgStencil else s.mode }

/-- What SEQ.INBYTE does in HDR after the header operation: nothing more after a trap; on `in_last` the end of the file
ends the header or is TruncatedHeader; else the next offset (R162, R185). -/
def afterHeaderByte (last : Bool) (s : State) : State :=
  if s.phase = .err then s
  else if last then
    if s.hpos.toNat + 1 < Const.hdrMin then s.trapEntry .truncatedHeader
    else { s with eof := true, hpos := BitVec.ofNat 6 Const.bodyOff, phase := .body }
  else { s with hpos := s.hpos + 1, phase := if s.hpos.toNat + 1 = Const.bodyOff then .body else s.phase }

/-- SEQ.INBYTE in HDR (R162). -/
def inbyteHdr (s : State) : Host.Outcome State Fault Refusal :=
  andThen (headerPart s.hpos s.acceptByte.latchMode) fun s1 => .next (afterHeaderByte s.edge.inLast s1)

/-- SEQ.INBYTE in BODY (R163). -/
def inbyteBody (s : State) : Host.Outcome State Fault Refusal :=
  andThen (bodyPart s.acceptByte) fun s1 => .next { s1 with eof := s1.eof || s.edge.inLast }

/-- SEQ.INBYTE (R162, R163): an input transfer, if the block is ready. -/
def execSeqInbyte (_outReady : Bool) (s : State) : Host.Outcome State Fault Refusal :=
  if inReady s then (if s.phase = .hdr then inbyteHdr s else inbyteBody s) else .next s

/-- SEQ.PADBYTE (R164): a missing body byte is 0x00 and SHORT <- 1. -/
def execSeqPadbyte (_inValid _outReady : Bool) (s : State) : Host.Outcome State Fault Refusal :=
  if padReady s then andThen (bodyPart (s.withByte 0)) fun s1 => .next { s1 with short := true } else .next s

/-- SEQ.OUTPIX (R166): ADEC.MAP, PAL, COMP, the transfer, ADEC.NEXT. -/
def execSeqOutpix (_inValid : Bool) (s : State) : Host.Outcome State Fault Refusal :=
  if outValid s then
    andThen (execAdecMap s.skip s.vsize s.y s.x s) fun s1 =>
    andThen (palPart s1.wires.idx s1) fun s2 =>
    andThen (compPart (cmpWord s2.mode s2.wires.rgb) s2) fun s3 =>
    execAdecNext s.skip s.vsize s.y s.x (s3.transfer (lastPosition s.vsize s.y s.x))
  else .next s

/-- The state condition of an F-EVT row (R78, R81); no other operation is a step of its own (R11). -/
def stepEnabled (s : State) : Instr → Bool
  | .seqReset _ _ => true
  | .seqInbyte _ => inReady s
  | .seqPadbyte _ _ => padReady s
  | .seqOutpix _ => outValid s
  | .hvMagic _ | .hvDimlo | .hvDimhi | .hvSkip _ | .hvDim0 _ | .hvDim1 _ | .hvDim2 _ | .unpLoad _ | .unpExpand
  | .adecMap _ _ _ _ | .adecNext _ _ _ _ | .palRomLo _ | .palRomHi _ | .palWhite7 _ | .palWhite8 _
  | .compOpaque _ | .compStBlack | .compStWhite | .compStClear _ => false

/-- The step that the control inputs and the state select at the next clock edge, if any (R78, R171). -/
def stepOp (s : State) : Option Instr := (decodeEvt (evtWord s.edge)).find? (stepEnabled s)

end Sys2Proof.Machine
end

