-- ==== Sys2Proof/Machine/Dispatch.lean ====
section
/-! DEFINITION. Machine/Dispatch.lean: the meaning of each operation, one arm per constructor. -/

namespace Sys2Proof.Machine

def exec (i : Instr) (s : State) : Host.Outcome State Fault Refusal :=
  match i with
  | .hvMagic p => Sys2Proof.Machine.execHvMagic p s
  | .hvDimlo => Sys2Proof.Machine.execHvDimlo s
  | .hvDimhi => Sys2Proof.Machine.execHvDimhi s
  | .hvSkip p => Sys2Proof.Machine.execHvSkip p s
  | .hvDim0 ign => Sys2Proof.Machine.execHvDim0 ign s
  | .hvDim1 ign => Sys2Proof.Machine.execHvDim1 ign s
  | .hvDim2 ign => Sys2Proof.Machine.execHvDim2 ign s
  | .unpLoad gcnt => Sys2Proof.Machine.execUnpLoad gcnt s
  | .unpExpand => Sys2Proof.Machine.execUnpExpand s
  | .adecMap skip vsize y x => Sys2Proof.Machine.execAdecMap skip vsize y x s
  | .adecNext skip vsize y x => Sys2Proof.Machine.execAdecNext skip vsize y x s
  | .palRomLo i6 => Sys2Proof.Machine.execPalRomLo i6 s
  | .palRomHi i5 => Sys2Proof.Machine.execPalRomHi i5 s
  | .palWhite7 i5 => Sys2Proof.Machine.execPalWhite7 i5 s
  | .palWhite8 i7 => Sys2Proof.Machine.execPalWhite8 i7 s
  | .compOpaque rgb => Sys2Proof.Machine.execCompOpaque rgb s
  | .compStBlack => Sys2Proof.Machine.execCompStBlack s
  | .compStWhite => Sys2Proof.Machine.execCompStWhite s
  | .compStClear rgb => Sys2Proof.Machine.execCompStClear rgb s
  | .seqReset inValid outReady => Sys2Proof.Machine.execSeqReset inValid outReady s
  | .seqInbyte outReady => Sys2Proof.Machine.execSeqInbyte outReady s
  | .seqPadbyte inValid outReady => Sys2Proof.Machine.execSeqPadbyte inValid outReady s
  | .seqOutpix inValid => Sys2Proof.Machine.execSeqOutpix inValid s

end Sys2Proof.Machine
end

