-- ==== Sys2Proof/Machine/Place.lean ====
section
/-! DEFINITION. Machine/Place.lean: how an operation is placed so that the very next clock edge performs it (log entry 12).
The four steps need port values and a phase; an operation of a sub-block needs the step that contains it, with the
registers, the index or the mode that select it. -/

namespace Sys2Proof.Machine

/-- The host drives `e` at the next clock edge, before what it drove already. -/
def State.drive (e : Edge) (s : State) : State := { s with edges := e :: s.edges }

/-- An edge that offers the byte `d`, not the last of the file. -/
def Edge.offer (d : Byte) : Edge := { Edge.idle with inValid := true, inData := d }

/-- An edge at which the host takes a pixel. -/
def Edge.take : Edge := { Edge.idle with outReady := true }

/-- The block waits for the header byte at offset `p`, and the host offers `d`. -/
def State.atHeader (p : BitVec 6) (d : Byte) (s : State) : State :=
  { s with phase := .hdr, hpos := p, eof := false }.drive (Edge.offer d)

/-- The block waits for byte `g` of a group, and the host offers 0x00. -/
def State.atBody (g : BitVec 3) (s : State) : State :=
  { s with phase := .body, gcnt := g, eof := false }.drive (Edge.offer 0)

/-- The block offers the pixel of (x, y) of a profile, and the host takes it. -/
def State.atPixel (skip : BitVec 4) (vsize : BitVec 6) (y x : BitVec 5) (s : State) : State :=
  { s with phase := .emit, skip := skip, vsize := vsize, y := y, x := x }.drive Edge.take

/-- The block offers a pixel whose index is `i`, in mode `m`. -/
def State.atIndex (m : Mode) (i : Byte) (s : State) : State :=
  { s with mode := m, idxbuf := bufSet s.idxbuf 0 i }.atPixel Const.dim2.skip Const.dim2.vsize 0 0

/-- An index whose colour is `rgb`, where the spec gives one (R145): white has 0, 0x211E1F has `S_BLACK`; of any other
colour no slot is known, and slot 1 stands for one. -/
def indexOf (rgb : Rgb) : Byte :=
  if rgb = Const.stWhiteRgb then 0 else if rgb = Const.stBlackRgb then BitVec.ofNat 8 Const.sBlack else 1

/-- The state `s` with the operation `i` placed for the next clock edge. -/
def placeOp (i : Instr) (s : State) : State :=
  match i with
  | .hvMagic p => s.atHeader (0#4 ++ p) (Const.magic p)
  | .hvDimlo => s.atHeader Const.dimLoPos 0
  | .hvDimhi => s.atHeader Const.dimHiPos 0
  | .hvSkip p => s.atHeader p 0
  | .hvDim0 _ => { s with dimlo := 0 }.atHeader Const.dimHiPos 0
  | .hvDim1 _ => { s with dimlo := 1 }.atHeader Const.dimHiPos 0
  | .hvDim2 _ => { s with dimlo := 2 }.atHeader Const.dimHiPos 0
  | .unpLoad g => s.atBody g
  | .unpExpand => s.atBody Const.grpLast
  | .adecMap k v y x => s.atPixel k v y x
  | .adecNext k v y x => s.atPixel k v y x
  | .palRomLo i => s.atIndex s.mode (0b00#2 ++ i)
  | .palRomHi i => s.atIndex s.mode (0b010#3 ++ i)
  | .palWhite7 i => s.atIndex s.mode (0b011#3 ++ i)
  | .palWhite8 i => s.atIndex s.mode (1#1 ++ i)
  | .compOpaque c => s.atIndex .opaqueMode (indexOf c)
  | .compStBlack => s.atIndex .stencilMode (indexOf Const.stBlackRgb)
  | .compStWhite => s.atIndex .stencilMode (indexOf Const.stWhiteRgb)
  | .compStClear c => s.atIndex .stencilMode (indexOf c)
  | .seqReset v r => s.drive { Edge.idle with rst := true, inValid := v, outReady := r }
  | .seqInbyte r =>
    { s with phase := (if s.phase = Phase.body then Phase.body else Phase.hdr), eof := false }.drive
      { Edge.offer (Const.magic 0) with outReady := r }
  | .seqPadbyte v r =>
    { s with phase := .body, eof := true }.drive { Edge.idle with inValid := v, outReady := r }
  | .seqOutpix v =>
    { s with
      phase := .emit
      vsize := if Const.legalProfile s.vsize s.skip then s.vsize else Const.dim2.vsize
      skip := if Const.legalProfile s.vsize s.skip then s.skip else Const.dim2.skip }.drive
      { Edge.take with inValid := v }

end Sys2Proof.Machine
end

