-- ==== Sys2Proof/Machine/Step.lean ====
section
/-! DEFINITION. Machine/Step.lean: one rising clock edge (00_scope.md R11): the step that the control inputs and the state
select is performed whole, or nothing happens; then the host's next port values come up. -/

namespace Sys2Proof.Machine

/-- One rising clock edge. -/
def step (s : State) : Host.Outcome State Fault Refusal :=
  match stepOp s with
  | some i => andThen (exec i s) fun t => .next t.tick
  | none => .next s.tick

/-- `s` with the operation of a table word placed so that the next clock edge performs it (log entry 12). A word that
decodes to nothing places nothing. -/
def State.withFetchWord (s : State) (nbits w : Nat) : State :=
  match decodeTableWord nbits w with
  | some i => placeOp i s
  | none => s

end Sys2Proof.Machine
end

