-- ==== Sys2Proof/Machine/Frame.lean ====
section
/-! DEFINITION. Machine/Frame.lean: the whole-frame function `Decode(F, n, s)` of 45_sequencer.md rule R169, written over the
bytes of a file with no state and no step. The machine's four steps must add up to it. -/

namespace Sys2Proof.Machine

/-- `body(j)`: the byte at body offset `j`, or 0x00 if the file has no such byte (R120, R125, R169). -/
def bodyByte (f : List Byte) (j : Nat) : Byte := f.getD (Const.bodyOff + j) 0

/-- The file bytes delivered so far among the first four equal MAGIC (R100, R101). -/
def magicSoFar (f : List Byte) : Bool :=
  (List.range Const.magicLen).all fun k => decide (f.length ≤ k) || f.getD k 0 == Const.magic (BitVec.ofNat 2 k)

/-- The dimension code of a file, 16 bits (R50, R169). -/
def frameCode (f : List Byte) : BitVec 16 := code16 (f.getD (Const.dimOff + 1) 0) (f.getD Const.dimOff 0)

/-- The header is whole and good, and selects the profile `p` (R100). -/
def headerGood (f : List Byte) (p : Const.Profile) : Prop :=
  Const.hdrMin ≤ f.length ∧ magicSoFar f = true ∧ Const.profileOf (frameCode f).toInt = some p

/-- EXPAND of the seven body bytes of group `g` (R120, R169). -/
def groupLanes (f : List Byte) (g : Nat) : Vector Byte 8 :=
  expandLanes (bodyByte f (Const.grpIn * g)) (bodyByte f (Const.grpIn * g + 1)) (bodyByte f (Const.grpIn * g + 2))
    (bodyByte f (Const.grpIn * g + 3)) (bodyByte f (Const.grpIn * g + 4)) (bodyByte f (Const.grpIn * g + 5))
    (bodyByte f (Const.grpIn * g + 6))

/-- `IDX[m]`: lane `m mod 8` of group `m div 8`, 8 being GRP_OUT (R169). -/
def frameIndex (f : List Byte) (m : Nat) : Byte :=
  (groupLanes f (m / Const.grpOut)).toList.getD (m % Const.grpOut) 0

/-- The pixel of raster position (x, y) of a file (R169). -/
def framePixel (f : List Byte) (m : Mode) (p : Const.Profile) (x y : Nat) : Pixel :=
  compPixel m (palColour (frameIndex f (p.skip.toNat + (p.skip.toNat + y) * Const.bufStride + x)))

/-- The output transfers of a whole file: `P[0], P[1], .., P[V*V-1]`, with `out_last` on the last only (R169). -/
def frameBeats (f : List Byte) (m : Mode) (p : Const.Profile) : List Beat :=
  (List.range (p.vsize.toNat * p.vsize.toNat)).map fun k =>
    { data := framePixel f m p (k % p.vsize.toNat) (k / p.vsize.toNat),
      last := k + 1 == p.vsize.toNat * p.vsize.toNat }

/-- What a whole file decodes to. -/
inductive FrameResult where
  | error (c : ErrCause)
  | ok (p : Const.Profile) (beats : List Beat) (short : Bool)
  deriving DecidableEq, Repr

/-- `Decode(F, n, s)` (R169): BadMagic first, then TruncatedHeader, then BadDimension, else the raster. -/
def decodeFrame (f : List Byte) (m : Mode) : FrameResult :=
  if Const.magicLen ≤ f.length ∧ magicSoFar f = false then .error .badMagic
  else if f.length < Const.hdrMin then .error .truncatedHeader
  else
    match Const.profileOf (frameCode f).toInt with
    | none => .error .badDimension
    | some p => .ok p (frameBeats f m p) (decide (f.length < Const.frameLen))

end Sys2Proof.Machine
end

