-- ==== Sys2Proof/Machine/Ports.lean ====
section
/-! DEFINITION. Machine/Ports.lean: the output ports as functions of the state (10_state.md R35). `in_ready` and
`out_valid` are `inReady` and `outValid` of Flags.lean. -/

namespace Sys2Proof.Machine

/-- The pixel of the state's raster position: COMP(MODE, PAL(IDXBUF[ADEC.MAP(X, Y)])) (R35, R155). -/
def pixelNow (s : State) : Pixel := compPixel s.mode (palColour (bufGet s.idxbuf (mapAddr s.skip s.y s.x)))

/-- `out_data`: the pixel while `out_valid = 1`, else a free value (R35, U7; log entry 6). -/
def outData (s : State) : Pixel := if outValid s then pixelNow s else Config.idleOutData s.cycle

/-- `out_last`: the last position while `out_valid = 1`, else a free value (R35, R135, U7; log entry 6). -/
def outLast (s : State) : Bool := if outValid s then lastPosition s.vsize s.y s.x else Config.idleOutLast s.cycle

/-- `st_phase`. -/
def stPhase (s : State) : BitVec 3 := s.phase.code

/-- `st_err`. -/
def stErr (s : State) : BitVec 2 := s.errc.code

/-- `st_short`. -/
def stShort (s : State) : BitVec 1 := BitVec.ofBool s.short

/-- `st_vsize`. -/
def stVsize (s : State) : BitVec 6 := s.vsize

end Sys2Proof.Machine
end

