-- ==== Sys2Proof/Safety.lean ====
section
/-! DEFINITION. Safety.lean: what a good state is, in the terms claims use: the end of a run, the register invariant of
10_state.md rule R39, the frame invariant that ties every register to the whole-frame function of 45_sequencer.md rule
R169, and the measure of the work a frame still has to do (70_reset_and_hazards.md R210). -/

namespace Sys2Proof.Machine

/-- A frame is over (R212). -/
def FrameOver (s : State) : Prop := s.phase = .done ∨ s.phase = .err

/-- R39 item 2, and no pixel yet. -/
structure HdrRegs (s : State) : Prop where
  hpos : s.hpos.toNat ≤ 31
  eof : s.eof = false
  short : s.short = false
  errc : s.errc = .noCause
  gidx : s.gidx = 0
  gcnt : s.gcnt = 0
  x : s.x = 0
  y : s.y = 0
  noProfile : s.hpos.toNat ≤ 7 → s.vsize = 0 ∧ s.skip = 0
  magic : 4 ≤ s.hpos.toNat → s.magok = true
  profile : 8 ≤ s.hpos.toNat → Const.legalProfile s.vsize s.skip = true
  pixels : s.pixels = []

/-- R39 item 3, and no pixel yet. -/
structure BodyRegs (s : State) : Prop where
  hpos : s.hpos = 32
  gidx : s.gidx.toNat ≤ 127
  gcnt : s.gcnt.toNat ≤ 6
  errc : s.errc = .noCause
  x : s.x = 0
  y : s.y = 0
  profile : Const.legalProfile s.vsize s.skip = true
  pixels : s.pixels = []

/-- R39 item 4, with R28 (the profile) and R23 (HPOS), and the number of pixels transferred (R134). -/
structure EmitRegs (s : State) : Prop where
  hpos : s.hpos = 32
  gidx : s.gidx = 128
  gcnt : s.gcnt = 0
  errc : s.errc = .noCause
  x : s.x.toNat < s.vsize.toNat
  y : s.y.toNat < s.vsize.toNat
  profile : Const.legalProfile s.vsize s.skip = true
  pixels : s.pixels.length = s.y.toNat * s.vsize.toNat + s.x.toNat

/-- R39 item 5, with R28, R23 and R24. -/
structure DoneRegs (s : State) : Prop where
  hpos : s.hpos = 32
  gidx : s.gidx = 128
  gcnt : s.gcnt = 0
  errc : s.errc = .noCause
  x : s.x = 0
  y : s.y = 0
  profile : Const.legalProfile s.vsize s.skip = true
  pixels : s.pixels.length = s.vsize.toNat * s.vsize.toNat

/-- R39 item 6: what a trap leaves (R186); no group was stored, so GIDX is 0. -/
structure ErrRegs (s : State) : Prop where
  eof : s.eof = false
  short : s.short = false
  gidx : s.gidx = 0
  gcnt : s.gcnt = 0
  x : s.x = 0
  y : s.y = 0
  vsize : s.vsize = 0
  skip : s.skip = 0
  pixels : s.pixels = []

/-- The register invariant of R39, with IDXBUF in its canonical form and every entry of a stored group below 128. -/
structure RegInv (s : State) : Prop where
  buf : Memory.wf s.idxbuf = true
  hdr : s.phase = .hdr → HdrRegs s
  body : s.phase = .body → BodyRegs s
  emit : s.phase = .emit → EmitRegs s
  done : s.phase = .done → DoneRegs s
  err : s.phase = .err → ErrRegs s
  cause : s.phase = .err ↔ s.errc ≠ .noCause
  short : s.short = true → s.eof = true
  entries : ∀ a, a < groupBase s.gidx → (bufGet s.idxbuf a).toNat < 128

/-- The header registers are those of the bytes delivered so far (R101, R102, R104 to R106). -/
structure HdrFrame (s : State) : Prop where
  length : s.file.length = s.hpos.toNat
  magok : s.magok = magicSoFar s.file
  dimlo : 7 ≤ s.file.length → s.dimlo = s.file.getD 6 0
  profile : 8 ≤ s.file.length → headerGood s.file ⟨s.vsize, s.skip⟩

/-- The unpacker's registers are those of the body bytes delivered or zero-filled so far (R120, R122, R125). -/
structure BodyFrame (s : State) : Prop where
  header : headerGood s.file ⟨s.vsize, s.skip⟩
  more : s.eof = false →
    s.file.length = Const.bodyOff + bodyOffset s.gidx s.gcnt ∧ s.short = false
  ended : s.eof = true →
    s.file.length ≤ Const.bodyOff + bodyOffset s.gidx s.gcnt ∧
    (s.short = true ↔ max Const.bodyOff s.file.length < Const.bodyOff + bodyOffset s.gidx s.gcnt)
  latches : ∀ k : Fin 7, k.val < s.gcnt.toNat → s.b[k] = bodyByte s.file (Const.grpIn * s.gidx.toNat + k.val)
  entries : ∀ a, a < groupBase s.gidx → bufGet s.idxbuf a = frameIndex s.file a

/-- The whole index buffer is the file's, and the pixels transferred are the first ones of its raster (R166, R169). -/
structure EmitFrame (s : State) : Prop where
  header : headerGood s.file ⟨s.vsize, s.skip⟩
  length : s.file.length ≤ Const.frameLen
  short : s.short = true ↔ s.file.length < Const.frameLen
  entries : ∀ a, a < Const.bufLen → bufGet s.idxbuf a = frameIndex s.file a
  pixels : s.pixels =
    (frameBeats s.file s.mode ⟨s.vsize, s.skip⟩).take (s.y.toNat * s.vsize.toNat + s.x.toNat)

/-- The frame invariant: the registers are what the bytes delivered so far make them, and a frame that is over has ended as
`Decode` of R169 says. -/
structure FrameInv (s : State) : Prop where
  regs : RegInv s
  hdr : s.phase = .hdr → HdrFrame s
  body : s.phase = .body → BodyFrame s
  emit : s.phase = .emit → EmitFrame s
  done : s.phase = .done → decodeFrame s.file s.mode = .ok ⟨s.vsize, s.skip⟩ s.pixels s.short
  err : s.phase = .err → decodeFrame s.file s.mode = .error s.errc

/-- An upper bound of the steps that a frame still takes before it is over (R210): exact in BODY and EMIT. -/
def workLeft (s : State) : Nat :=
  match s.phase with
  | .hdr => 2000 - s.hpos.toNat
  | .body => Const.bodyLen - bodyOffset s.gidx s.gcnt + s.vsize.toNat * s.vsize.toNat
  | .emit => s.vsize.toNat * s.vsize.toNat - (s.y.toNat * s.vsize.toNat + s.x.toNat)
  | .done => 0
  | .err => 0

/-- The host offers a byte and takes a pixel at the next edge, the block is willing, and there is no reset (R165, R211). -/
def willing (s : State) : Bool := !s.edge.rst && s.edge.inValid && s.edge.outReady && s.edge.go

/-- What taking the body byte `d` does to the unpacker's registers, PHASE and IDXBUF (R121, R123, R124): the latch of GCNT
takes it; the seventh byte of a group stores the eight 7-bit fields of the group at 8 GIDX and moves to the next group. -/
def LoadsByte (d : Byte) (s t : State) : Prop :=
  (∀ k : Fin 7, t.b[k] = if k.val = s.gcnt.toNat then d else s.b[k]) ∧
  (if s.gcnt.toNat = 6 then
    t.gcnt = 0 ∧ t.gidx = s.gidx + 1 ∧ t.phase = (if s.gidx.toNat = 127 then .emit else s.phase) ∧
    (∀ k : Fin 8, bufGet t.idxbuf (8 * s.gidx.toNat + k.val) =
      laneField (groupWord s.b[0] s.b[1] s.b[2] s.b[3] s.b[4] s.b[5] d) k.val) ∧
    (∀ a, a < 8 * s.gidx.toNat ∨ 8 * s.gidx.toNat + 8 ≤ a → bufGet t.idxbuf a = bufGet s.idxbuf a)
  else t.gcnt = s.gcnt + 1 ∧ t.gidx = s.gidx ∧ t.phase = s.phase ∧ t.idxbuf = s.idxbuf)

end Sys2Proof.Machine
end

