-- ==== Sys2Proof/Certificates/Slice0/Obligations.lean ====
section
/-! DEFINITION. Certificates/Slice0/Obligations.lean: the statements for the provers. Each docstring names the rule of spec/ it
formalises; OBLIGATIONS.json gives basis and quote. Fields of `State` that are the model's own (`wires`, `edges`, `file`,
`pixels`, `earlier`, `cycle`) are log entries 3 to 6. -/

open Sys2Proof Sys2Proof.Machine

/-! ### Encoding -/

/-- R70 to R78, R81: an operation is among those its own word selects. -/
def Obligations.EncodeThenDecodeEveryOperation : Prop :=
  ∀ i : Instr, i.WellFormed = true → ∃ l, decode i.format (encode i) = .ok l ∧ i ∈ l

/-- R70 to R78, R81: every operation a word selects has that word, so that no bit of a word is dropped. -/
def Obligations.DecodedOperationsEncodeBack : Prop :=
  ∀ (f : Format) (w : BitVec f.width) (l : List Instr) (i : Instr), decode f w = .ok l → i ∈ l →
    i.WellFormed = true ∧ i.format = f ∧ (encode i).toNat = w.toNat

/-- R81, R82: in F-OFF, F-HDR, F-IDX and F-CMP the selected row matches, and every other matching row of the table has
fewer 1 bits in its mask. -/
def Obligations.SelectedRowHasGreatestMask : Prop :=
  ∀ (f : Format) (w : BitVec f.width) (i : Instr), (f = .off ∨ f = .hdr ∨ f = .idx ∨ f = .cmp) →
    decode f w = .ok [i] →
    i.row ∈ opTable ∧ i.row.format = f ∧ i.row.selects w.toNat = true ∧
      ∀ r ∈ opTable, r.format = f → r.selects w.toNat = true → r = i.row ∨ r.maskBits < i.row.maskBits

/-- R81, R78: in F-GC, F-XY and F-EVT the operations of a word are exactly those of the matching rows. -/
def Obligations.EveryMatchingRowIsSelected : Prop :=
  ∀ (f : Format) (w : BitVec f.width) (l : List Instr), (f = .gc ∨ f = .xy ∨ f = .evt) → decode f w = .ok l →
    ∀ r ∈ opTable, r.format = f → (r.selects w.toNat = true ↔ ∃ i ∈ l, i.row = r)

/-- R83 (a), (b): which header words are illegal, by the bits of the word and not by the signed code. -/
def Obligations.IllegalHeadersAreRejected : Prop :=
  ∀ h : BitVec 64,
    (decodeHdr h = .error .badMagic ↔ h.extractLsb' 0 32 ≠ 0x42584950#32) ∧
    (decodeHdr h = .error .badDimension ↔
      h.extractLsb' 0 32 = 0x42584950#32 ∧ ¬ (h.extractLsb' 48 16).toNat ≤ 2)

/-- R71, R81: words written out from the spec's encodings select the operation they stand for. -/
def Obligations.SpecWordsDecode : Prop :=
  decode .off 0b000110#6 = .ok [.hvDimlo] ∧
  decode .hdr 0x0001CDAB42584950#64 = .ok [.hvDim1 0xCDAB#16] ∧
  decode .gc 0b110#3 = .ok [.unpLoad 6, .unpExpand] ∧
  decode .xy 0b1000_010000_01111_00001#20 = .ok [.adecMap 8 16 15 1, .adecNext 8 16 15 1] ∧
  decode .idx 0x5F#8 = .ok [.palRomHi 31] ∧
  decode .cmp 0x1211E1F#25 = .ok [.compStBlack] ∧
  decode .evt 0b010#3 = .ok [.seqInbyte false, .seqPadbyte true false]

/-! ### A clock edge -/

/-- R11, R78: a clock edge performs the operation that the control inputs and the state select, and then the host's next
port values come up (`edges`, `cycle`: log entries 4 and 6); with none selected only the edge passes. -/
def Obligations.StepPerformsTheSelectedOperation : Prop :=
  ∀ s : State,
    (∀ i, stepOp s = some i →
      i ∈ decodeEvt (evtWord s.edge) ∧ i.WellFormed = true ∧
      step s = andThen (exec i s) fun t => .next { t with edges := t.edges.tail, cycle := t.cycle + 1 }) ∧
    (stepOp s = none → step s = .next { s with edges := s.edges.tail, cycle := s.cycle + 1 })

/-- R78, R161, R164, R166: which step happens, from the ports and the state; reset overrides every other. -/
def Obligations.WhichStepHappens : Prop :=
  ∀ s : State, stepOp s =
    if s.edge.rst = true then some (.seqReset s.edge.inValid s.edge.outReady)
    else if s.edge.inValid = true ∧ (s.phase = .hdr ∨ s.phase = .body) ∧ s.eof = false ∧ s.edge.go = true then
      some (.seqInbyte s.edge.outReady)
    else if s.edge.outReady = true ∧ s.phase = .emit ∧ s.edge.go = true then some (.seqOutpix s.edge.inValid)
    else if s.phase = .body ∧ s.eof = true ∧ s.edge.go = true then some (.seqPadbyte s.edge.inValid s.edge.outReady)
    else none

/-- R171: at most one of the operations that the control inputs match is enabled. -/
def Obligations.AtMostOneStepIsEnabled : Prop :=
  ∀ (s : State) (i j : Instr), i ∈ decodeEvt (evtWord s.edge) → j ∈ decodeEvt (evtWord s.edge) →
    stepEnabled s i = true → stepEnabled s j = true → i = j

/-! ### HV -/

/-- R101: HV.MAGIC without a trap writes MAGOK and nothing else. -/
def Obligations.HvMagicUpdatesMagok : Prop :=
  ∀ (p : BitVec 2) (s : State), ¬ (p = 3 ∧ (s.magok = false ∨ s.wires.d ≠ 0x42)) →
    exec (.hvMagic p) s = .next { s with
      magok := s.magok && decide (s.wires.d = [(0x50 : Byte), 0x49, 0x58, 0x42].getD p.toNat 0) }

/-- R101, R186: HV.MAGIC at offset 3 after any mismatch raises BadMagic: MAGOK, PHASE and ERRC are written, nothing else. -/
def Obligations.HvMagicRaisesBadMagic : Prop :=
  ∀ s : State, (s.magok = false ∨ s.wires.d ≠ 0x42) →
    exec (.hvMagic 3) s = .next { s with magok := false, phase := .err, errc := .badMagic }

/-- R102. -/
def Obligations.HvDimloLatchesTheLowByte : Prop :=
  decodeOff 6 = .ok .hvDimlo ∧ (Instr.hvDimlo.row.mask = 0x3F ∧ Instr.hvDimlo.row.value = 0x06) ∧
    ∀ s : State, exec .hvDimlo s = .next { s with dimlo := s.wires.d }

/-- R107: HV.SKIP is the default row, is selected at offsets 4, 5 and 8 to 31, and changes nothing, whatever the byte. -/
def Obligations.HvSkipDiscardsTheByte : Prop :=
  ∀ (p : BitVec 6) (s : State), (p = 4 ∨ p = 5 ∨ (8 ≤ p.toNat ∧ p.toNat ≤ 31)) →
    decodeOff p = .ok (.hvSkip p) ∧ ((Instr.hvSkip p).row.mask = 0x00 ∧ (Instr.hvSkip p).row.value = 0x00) ∧
      exec (.hvSkip p) s = .next s

/-- R104 to R106: the rows and the profiles of the three operations, whatever file bytes 4 and 5 are. -/
def Obligations.HvDimWritesItsProfile : Prop :=
  ∀ (g : BitVec 16) (s : State),
    ((Instr.hvDim0 g).row.mask = 0xFFFF0000FFFFFFFF ∧ (Instr.hvDim0 g).row.value = 0x0000000042584950) ∧
    ((Instr.hvDim1 g).row.mask = 0xFFFF0000FFFFFFFF ∧ (Instr.hvDim1 g).row.value = 0x0001000042584950) ∧
    ((Instr.hvDim2 g).row.mask = 0xFFFF0000FFFFFFFF ∧ (Instr.hvDim2 g).row.value = 0x0002000042584950) ∧
    exec (.hvDim0 g) s = .next { s with vsize := 16, skip := 8 } ∧
    exec (.hvDim1 g) s = .next { s with vsize := 24, skip := 4 } ∧
    exec (.hvDim2 g) s = .next { s with vsize := 32, skip := 0 }

/-- R103: the code is the byte of the step over DIMLO; 0, 1, 2 select a profile, the 65 533 others raise BadDimension. -/
def Obligations.HvDimhiSelectsByTheCode : Prop :=
  decodeOff 7 = .ok .hvDimhi ∧ (Instr.hvDimhi.row.mask = 0x3F ∧ Instr.hvDimhi.row.value = 0x07) ∧
  ∀ s : State, exec .hvDimhi s = .next (
    if 256 * s.wires.d.toNat + s.dimlo.toNat = 0 then { s with vsize := 16, skip := 8 }
    else if 256 * s.wires.d.toNat + s.dimlo.toNat = 1 then { s with vsize := 24, skip := 4 }
    else if 256 * s.wires.d.toNat + s.dimlo.toNat = 2 then { s with vsize := 32, skip := 0 }
    else { s with phase := .err, errc := .badDimension })

/-! ### UNP -/

/-- R121: UNP.LOAD at the counter's value, in any group: the latch, the counters, the group's eight entries at the seventh
byte, and nothing else. -/
def Obligations.UnpLoadTakesTheByte : Prop :=
  ∀ s : State, s.gcnt.toNat ≤ 6 → s.gidx.toNat ≤ 127 → Memory.wf s.idxbuf = true →
    ∃ t, exec (.unpLoad s.gcnt) s = .next t ∧ LoadsByte s.wires.d s t ∧
      t = { s with b := t.b, gcnt := t.gcnt, gidx := t.gidx, phase := t.phase, idxbuf := t.idxbuf }

/-- R123, R53: UNP.EXPAND writes lane k of the group to entry 8 GIDX + k, and nothing else. -/
def Obligations.UnpExpandStoresTheLanes : Prop :=
  ∀ s : State, s.gidx.toNat ≤ 127 → Memory.wf s.idxbuf = true →
    ∃ t, exec .unpExpand s = .next t ∧ t = { s with idxbuf := t.idxbuf } ∧
      (∀ k : Fin 8, bufGet t.idxbuf (8 * s.gidx.toNat + k.val) =
        (expandLanes s.b[0] s.b[1] s.b[2] s.b[3] s.b[4] s.b[5] s.wires.d)[k]) ∧
      (∀ a, a < 8 * s.gidx.toNat ∨ 8 * s.gidx.toNat + 8 ≤ a → bufGet t.idxbuf a = bufGet s.idxbuf a)

/-- R51, R72, R124: the source's eight formulas are the eight consecutive 7-bit fields of the 56-bit group (C1: lane 7 holds
the top bit of b6). -/
def Obligations.LanesAreTheFieldsOfTheGroup : Prop :=
  ∀ (b0 b1 b2 b3 b4 b5 b6 : Byte) (k : Fin 8),
    (expandLanes b0 b1 b2 b3 b4 b5 b6)[k] = laneField (groupWord b0 b1 b2 b3 b4 b5 b6) k.val

/-- R124: every lane is below 128, and no group bit is dropped: two groups with the same lanes are the same group. -/
def Obligations.LanesLoseNoBit : Prop :=
  (∀ (b0 b1 b2 b3 b4 b5 b6 : Byte) (k : Fin 8), ((expandLanes b0 b1 b2 b3 b4 b5 b6)[k]).toNat < 128) ∧
  ∀ b0 b1 b2 b3 b4 b5 b6 c0 c1 c2 c3 c4 c5 c6 : Byte,
    expandLanes b0 b1 b2 b3 b4 b5 b6 = expandLanes c0 c1 c2 c3 c4 c5 c6 →
    b0 = c0 ∧ b1 = c1 ∧ b2 = c2 ∧ b3 = c3 ∧ b4 = c4 ∧ b5 = c5 ∧ b6 = c6

/-- U18, log entry 10: the register values that no reachable state holds are refused by name. -/
def Obligations.UnreachableRegistersAreRefused : Prop :=
  ∀ s : State,
    (128 ≤ s.gidx.toNat → ∀ g, exec (.unpLoad g) s = .refused .gidxUnreachable) ∧
    (128 ≤ s.gidx.toNat → exec .unpExpand s = .refused .gidxUnreachable) ∧
    (s.gidx.toNat < 128 → exec (.unpLoad 7) s = .refused (.noRow .gc)) ∧
    (∀ k v y x, Const.legalProfile v k = false →
      exec (.adecMap k v y x) s = .refused .profileUnreachable ∧
      exec (.adecNext k v y x) s = .refused .profileUnreachable)

/-! ### ADEC -/

/-- R131: the address as row over column, and the entry at SKIP + (SKIP + Y) 32 + X; no register changes. -/
def Obligations.AdecMapReadsTheEntry : Prop :=
  ∀ (k : BitVec 4) (v : BitVec 6) (y x : BitVec 5) (s : State), Const.legalProfile v k = true →
    x.toNat < v.toNat → y.toNat < v.toNat →
    exec (.adecMap k v y x) s = .next { s with
      wires := { s.wires with
        addr := (k.setWidth 5 + y) ++ (k.setWidth 5 + x)
        idx := bufGet s.idxbuf (k.toNat + (k.toNat + y.toNat) * 32 + x.toNat) } }

/-- R131, R132: inside a profile's raster the map stays in the window (rows and columns SKIP to SKIP + VSIZE - 1 of the 32-wide
grid), between its corners and inside IDXBUF, and is injective. -/
def Obligations.AdecMapIsInRangeAndInjective : Prop :=
  ∀ (k : BitVec 4) (v : BitVec 6) (y x y' x' : BitVec 5), Const.legalProfile v k = true →
    x.toNat < v.toNat → y.toNat < v.toNat → x'.toNat < v.toNat → y'.toNat < v.toNat →
    (k.toNat ≤ mapAddr k y x / 32 ∧ mapAddr k y x / 32 < k.toNat + v.toNat) ∧
      (k.toNat ≤ mapAddr k y x % 32 ∧ mapAddr k y x % 32 < k.toNat + v.toNat) ∧
      33 * k.toNat ≤ mapAddr k y x ∧ mapAddr k y x ≤ 33 * (k.toNat + v.toNat - 1) ∧ mapAddr k y x < 1024 ∧
      (mapAddr k y x = mapAddr k y' x' → y = y' ∧ x = x')

/-- From R133's sentence that the spec marks as its own inference: for a side of 1 to 32 and 5-bit coordinates, a raster stays
inside IDXBUF exactly when SKIP + VSIZE is at most 32. -/
def Obligations.ProfileFitsExactlyWhenWithin32 : Prop :=
  ∀ (k : BitVec 4) (v : BitVec 6), 1 ≤ v.toNat → v.toNat ≤ 32 →
    ((∀ y x : BitVec 5, x.toNat < v.toNat → y.toNat < v.toNat → mapAddr k y x < 1024) ↔ k.toNat + v.toNat ≤ 32)

/-- R134: from raster number n = Y VSIZE + X the position goes to number n + 1, inside the raster, or after the last one to
(0, 0) with PHASE = DONE; nothing but X, Y and PHASE changes. -/
def Obligations.AdecNextIsRowMajor : Prop :=
  ∀ (k : BitVec 4) (v : BitVec 6) (y x : BitVec 5) (s : State), Const.legalProfile v k = true →
    x.toNat < v.toNat → y.toNat < v.toNat → s.x = x → s.y = y →
    ∃ t, exec (.adecNext k v y x) s = .next t ∧ t = { s with x := t.x, y := t.y, phase := t.phase } ∧
      (if y.toNat * v.toNat + x.toNat + 1 = v.toNat * v.toNat then t.x = 0 ∧ t.y = 0 ∧ t.phase = .done
       else t.y.toNat * v.toNat + t.x.toNat = y.toNat * v.toNat + x.toNat + 1 ∧ t.x.toNat < v.toNat ∧
         t.y.toNat < v.toNat ∧ t.phase = s.phase)

/-! ### PAL -/

/-- R141 to R144: the result of each palette row; no register changes. -/
def Obligations.PaletteRowResults : Prop :=
  ∀ s : State,
    (∀ i, exec (.palRomLo i) s = .next { s with wires := { s.wires with rgb := Const.palette i.toNat } }) ∧
    (∀ i, exec (.palRomHi i) s = .next { s with wires := { s.wires with rgb := Const.palette (64 + i.toNat) } }) ∧
    (∀ i, exec (.palWhite7 i) s = .next { s with wires := { s.wires with rgb := 0xFFFFFF } }) ∧
    (∀ i, exec (.palWhite8 i) s = .next { s with wires := { s.wires with rgb := 0xFFFFFF } })

/-- R140: PAL is total: the operation that any index byte selects gives the ROM's colour below 96 and white from 96 on, and
changes no register. -/
def Obligations.PaletteIsTotal : Prop :=
  ∀ (idx : Byte) (s : State), exec (decodeIdx idx) s = .next { s with
    wires := { s.wires with rgb := if idx.toNat < 96 then Const.palette idx.toNat else 0xFFFFFF } }

/-- R7 (P1, P2), R145: what is known of the open palette (log entry 7). -/
def Obligations.PaletteKnownEntries : Prop :=
  palColour 0 = 0xFFFFFF ∧ (∀ idx : Byte, 96 ≤ idx.toNat → palColour idx = 0xFFFFFF) ∧
    (0 < Const.sBlack ∧ Const.sBlack < 96) ∧ palColour (BitVec.ofNat 8 Const.sBlack) = 0x211E1F

/-! ### COMP -/

/-- R151 to R154: the result of each composer row; no register changes. -/
def Obligations.ComposerRowResults : Prop :=
  ∀ s : State,
    (∀ c, exec (.compOpaque c) s = .next { s with wires := { s.wires with pix := 0xFF000000 ||| c.setWidth 32 } }) ∧
    exec .compStBlack s = .next { s with wires := { s.wires with pix := 0xFF000000 } } ∧
    exec .compStWhite s = .next { s with wires := { s.wires with pix := 0xFFFFFFFF } } ∧
    (∀ c, exec (.compStClear c) s = .next { s with wires := { s.wires with pix := 0x00000000 } })

/-- R150: COMP is total: the operation that {MODE, rgb} selects gives the pixel of mode and colour, and changes no
register. -/
def Obligations.ComposerIsTotal : Prop :=
  ∀ (m : Mode) (c : Rgb) (s : State), exec (decodeCmp (cmpWord m c)) s = .next { s with
    wires := { s.wires with pix :=
      if m = .opaqueMode then 0xFF#8 ++ c
      else if c = 0x211E1F then 0xFF000000
      else if c = 0xFFFFFF then 0xFFFFFFFF
      else 0x00000000 } }

/-- R77, R151 to R154: alpha is 0xFF or 0x00; opaque mode passes the colour; stencil mode has three words. -/
def Obligations.PixelWordsOfEachMode : Prop :=
  ∀ c : Rgb,
    (compPixel .opaqueMode c).extractLsb' 24 8 = 0xFF#8 ∧ (compPixel .opaqueMode c).extractLsb' 0 24 = c ∧
    (compPixel .stencilMode c = 0xFF000000 ∨ compPixel .stencilMode c = 0xFFFFFFFF ∨
      compPixel .stencilMode c = 0x00000000)

/-! ### SEQ.RESET -/

/-- R160: reset is performed at every edge with rst = 1 whatever else holds, writes every register of R40, and leaves B[] and
IDXBUF; what was transferred stays transferred (the record of transfers is log entry 5). -/
def Obligations.ResetWritesEveryRegister : Prop :=
  (∀ s : State, s.edge.rst = true → stepOp s = some (.seqReset s.edge.inValid s.edge.outReady)) ∧
  ∀ (v r : Bool) (s : State), ∃ t, exec (.seqReset v r) s = .next t ∧
    t.phase = .hdr ∧ t.hpos = 0 ∧ t.magok = true ∧ t.dimlo = 0 ∧ t.mode = .opaqueMode ∧ t.vsize = 0 ∧ t.skip = 0 ∧
    t.eof = false ∧ t.short = false ∧ t.errc = .noCause ∧ t.gcnt = 0 ∧ t.gidx = 0 ∧ t.x = 0 ∧ t.y = 0 ∧
    t.b = s.b ∧ t.idxbuf = s.idxbuf ∧ t.earlier ++ t.pixels = s.earlier ++ s.pixels

/-- R40, R79: the machine starts as a reset leaves it: from any state, one clock edge with rst = 1 gives a state that agrees
with State.reset in every register R40 lists, and shows the port values R40 gives. -/
def Obligations.ResetStateIsWhatResetLeaves : Prop :=
  ∀ s : State, s.edge.rst = true → ∃ t, step s = .next t ∧
    t.phase = State.reset.phase ∧ t.hpos = State.reset.hpos ∧ t.magok = State.reset.magok ∧
    t.dimlo = State.reset.dimlo ∧ t.mode = State.reset.mode ∧ t.vsize = State.reset.vsize ∧
    t.skip = State.reset.skip ∧ t.eof = State.reset.eof ∧ t.short = State.reset.short ∧ t.errc = State.reset.errc ∧
    t.gcnt = State.reset.gcnt ∧ t.gidx = State.reset.gidx ∧ t.x = State.reset.x ∧ t.y = State.reset.y ∧
    outValid t = false ∧ stPhase t = 0 ∧ stErr t = 0 ∧ stShort t = 0 ∧ stVsize t = 0

/-! ### Ports -/

/-- R35, R79: what the output ports show; `out_data` and `out_last` are stated while `out_valid` is 1 only. -/
def Obligations.OutputPortsShowTheState : Prop :=
  ∀ s : State,
    (inReady s = true → (s.phase = .hdr ∨ s.phase = .body) ∧ s.eof = false) ∧
    (outValid s = true → s.phase = .emit ∧
      outData s =
        compPixel s.mode (palColour (bufGet s.idxbuf (s.skip.toNat + (s.skip.toNat + s.y.toNat) * 32 + s.x.toNat))) ∧
      (outLast s = true ↔ s.x.toNat + 1 = s.vsize.toNat ∧ s.y.toNat + 1 = s.vsize.toNat)) ∧
    (stPhase s).toNat = (match s.phase with | .hdr => 0 | .body => 1 | .emit => 2 | .done => 3 | .err => 4) ∧
    (stErr s).toNat =
      (match s.errc with | .noCause => 0 | .badMagic => 1 | .badDimension => 2 | .truncatedHeader => 3) ∧
    (stShort s = 1 ↔ s.short = true) ∧ stVsize s = s.vsize

/-! ### SEQ.INBYTE in HDR -/

/-- R162, R101: a magic byte, not the last of the file and without a trap. -/
def Obligations.HeaderTakesAMagicByte : Prop :=
  ∀ (r : Bool) (s : State), s.phase = .hdr → s.eof = false → s.edge.go = true → s.edge.inLast = false →
    s.hpos.toNat ≤ 3 → (s.hpos = 3 → s.magok = true ∧ s.edge.inData = 0x42) →
    exec (.seqInbyte r) s = .next { s with
      wires := { s.wires with d := s.edge.inData }
      file := s.file ++ [s.edge.inData]
      mode := if s.hpos = 0 then modeOf s.edge.cfgStencil else s.mode
      magok := s.magok && decide (s.edge.inData = [(0x50 : Byte), 0x49, 0x58, 0x42].getD s.hpos.toNat 0)
      hpos := s.hpos + 1 }

/-- R162, R102, R107: an ignored byte and the low byte of the dimension code, not the last of the file. -/
def Obligations.HeaderTakesAnIgnoredOrLowByte : Prop :=
  ∀ (r : Bool) (s : State), s.phase = .hdr → s.eof = false → s.edge.go = true → s.edge.inLast = false →
    (s.hpos.toNat = 4 ∨ s.hpos.toNat = 5 ∨ s.hpos.toNat = 6 ∨ (8 ≤ s.hpos.toNat ∧ s.hpos.toNat ≤ 31)) →
    exec (.seqInbyte r) s = .next { s with
      wires := { s.wires with d := s.edge.inData }
      file := s.file ++ [s.edge.inData]
      dimlo := if s.hpos = 6 then s.edge.inData else s.dimlo
      hpos := s.hpos + 1
      phase := if s.hpos = 31 then .body else .hdr }

/-- R162, R103: the high byte of a legal dimension code, the last byte of the file or not. -/
def Obligations.HeaderTakesTheHighByte : Prop :=
  ∀ (r : Bool) (s : State), s.phase = .hdr → s.eof = false → s.edge.go = true → s.hpos = 7 →
    256 * s.edge.inData.toNat + s.dimlo.toNat ≤ 2 →
    exec (.seqInbyte r) s = .next { s with
      wires := { s.wires with d := s.edge.inData }
      file := s.file ++ [s.edge.inData]
      vsize := if s.dimlo = 0 then 16 else if s.dimlo = 1 then 24 else 32
      skip := if s.dimlo = 0 then 8 else if s.dimlo = 1 then 4 else 0
      eof := s.edge.inLast
      hpos := if s.edge.inLast then 32 else 8
      phase := if s.edge.inLast then .body else .hdr }

/-- R162 (c): the file ends inside the reserved span: the rest of it is skipped. -/
def Obligations.HeaderEndsInTheReservedSpan : Prop :=
  ∀ (r : Bool) (s : State), s.phase = .hdr → s.eof = false → s.edge.go = true → s.edge.inLast = true →
    8 ≤ s.hpos.toNat → s.hpos.toNat ≤ 31 →
    exec (.seqInbyte r) s = .next { s with
      wires := { s.wires with d := s.edge.inData }
      file := s.file ++ [s.edge.inData]
      eof := true
      hpos := 32
      phase := .body }

/-- R101, R162 (a), R181, R185, R186: BadMagic at offset 3, also when the byte is the last of the file. -/
def Obligations.HeaderTrapsBadMagic : Prop :=
  ∀ (r : Bool) (s : State), s.phase = .hdr → s.eof = false → s.edge.go = true → s.hpos = 3 →
    (s.magok = false ∨ s.edge.inData ≠ 0x42) →
    exec (.seqInbyte r) s = .next { s with
      wires := { s.wires with d := s.edge.inData }
      file := s.file ++ [s.edge.inData]
      magok := false
      phase := .err
      errc := .badMagic }

/-- R103, R162 (b), R182, R186: BadDimension at offset 7, also when the byte is the last of the file. -/
def Obligations.HeaderTrapsBadDimension : Prop :=
  ∀ (r : Bool) (s : State), s.phase = .hdr → s.eof = false → s.edge.go = true → s.hpos = 7 →
    2 < 256 * s.edge.inData.toNat + s.dimlo.toNat →
    exec (.seqInbyte r) s = .next { s with
      wires := { s.wires with d := s.edge.inData }
      file := s.file ++ [s.edge.inData]
      phase := .err
      errc := .badDimension }

/-- R162 (d), R183, R186: the file ends at offset 0 to 6 with no BadMagic raised: the header operation's own write stays, then
the trap; HPOS and EOF are not written. -/
def Obligations.HeaderTrapsTruncated : Prop :=
  ∀ (r : Bool) (s : State), s.phase = .hdr → s.eof = false → s.edge.go = true → s.edge.inLast = true →
    s.hpos.toNat ≤ 6 → (s.hpos = 3 → s.magok = true ∧ s.edge.inData = 0x42) →
    exec (.seqInbyte r) s = .next { s with
      wires := { s.wires with d := s.edge.inData }
      file := s.file ++ [s.edge.inData]
      mode := if s.hpos = 0 then modeOf s.edge.cfgStencil else s.mode
      magok := if s.hpos.toNat ≤ 3 then
          s.magok && decide (s.edge.inData = [(0x50 : Byte), 0x49, 0x58, 0x42].getD s.hpos.toNat 0)
        else s.magok
      dimlo := if s.hpos = 6 then s.edge.inData else s.dimlo
      phase := .err
      errc := .truncatedHeader }

/-! ### Byte steps in BODY -/

/-- R163, R121, R122: a body byte is taken as UNP.LOAD says, EOF with the last one. -/
def Obligations.BodyTakesAByte : Prop :=
  ∀ (r : Bool) (s : State), s.phase = .body → s.eof = false → s.edge.go = true → s.gcnt.toNat ≤ 6 →
    s.gidx.toNat ≤ 127 → Memory.wf s.idxbuf = true →
    ∃ t, exec (.seqInbyte r) s = .next t ∧ LoadsByte s.edge.inData s t ∧
      t = { s with
        wires := { s.wires with d := s.edge.inData }, file := s.file ++ [s.edge.inData], eof := s.edge.inLast
        b := t.b, gcnt := t.gcnt, gidx := t.gidx, phase := t.phase, idxbuf := t.idxbuf }

/-- R164, R125: a missing body byte is taken as 0x00, and SHORT is set. -/
def Obligations.PaddingTakesAZeroByte : Prop :=
  ∀ (v r : Bool) (s : State), s.phase = .body → s.eof = true → s.edge.go = true → s.gcnt.toNat ≤ 6 →
    s.gidx.toNat ≤ 127 → Memory.wf s.idxbuf = true →
    ∃ t, exec (.seqPadbyte v r) s = .next t ∧ LoadsByte 0x00 s t ∧
      t = { s with
        wires := { s.wires with d := 0x00 }, short := true
        b := t.b, gcnt := t.gcnt, gidx := t.gidx, phase := t.phase, idxbuf := t.idxbuf }

/-! ### SEQ.OUTPIX -/

/-- R166, R35, R134: the pixel of (X, Y) is transferred with `out_last` at the last position only, and the position moves on;
nothing but X, Y, PHASE and the model's own record changes. -/
def Obligations.OutpixTransfersThePixel : Prop :=
  ∀ (v : Bool) (s : State), s.phase = .emit → s.edge.go = true → Const.legalProfile s.vsize s.skip = true →
    s.x.toNat < s.vsize.toNat → s.y.toNat < s.vsize.toNat →
    ∃ t, exec (.seqOutpix v) s = .next t ∧
      t.pixels = s.pixels ++ [{
        data := compPixel s.mode (palColour (bufGet s.idxbuf (s.skip.toNat + (s.skip.toNat + s.y.toNat) * 32 + s.x.toNat)))
        last := decide (s.x.toNat = s.vsize.toNat - 1 ∧ s.y.toNat = s.vsize.toNat - 1) }] ∧
      t = { s with wires := t.wires, pixels := t.pixels, x := t.x, y := t.y, phase := t.phase } ∧
      (if s.x.toNat ≠ s.vsize.toNat - 1 then t.x = s.x + 1 ∧ t.y = s.y ∧ t.phase = .emit
       else if s.y.toNat ≠ s.vsize.toNat - 1 then t.x = 0 ∧ t.y = s.y + 1 ∧ t.phase = .emit
       else t.x = 0 ∧ t.y = 0 ∧ t.phase = .done)

/-- R161, R164, R166, R170: outside its phase, after the end of the file, or while the block is not willing, a step has no
effect. -/
def Obligations.DisabledStepsHaveNoEffect : Prop :=
  ∀ (v r : Bool) (s : State),
    ((s.phase ≠ .hdr ∧ s.phase ≠ .body) ∨ s.eof = true ∨ s.edge.go = false → exec (.seqInbyte r) s = .next s) ∧
    (s.phase ≠ .body ∨ s.eof = false ∨ s.edge.go = false → exec (.seqPadbyte v r) s = .next s) ∧
    (s.phase ≠ .emit ∨ s.edge.go = false → exec (.seqOutpix v) s = .next s)

/-! ### Rules about every step -/

/-- R27, R167: MODE changes only by reset or with file offset 0, where it becomes `cfg_stencil`. -/
def Obligations.ModeChangesOnlyWithTheFirstByte : Prop :=
  ∀ s t : State, step s = .next t → t.mode ≠ s.mode →
    (s.edge.rst = true ∧ t.mode = .opaqueMode) ∨
    (s.edge.rst = false ∧ s.phase = .hdr ∧ s.hpos = 0 ∧ s.edge.inValid = true ∧ t.mode = modeOf s.edge.cfgStencil)

/-- R28: VSIZE and SKIP change only by reset or with file offset 7, to one of the three pairs. -/
def Obligations.ProfileChangesOnlyAtOffset7 : Prop :=
  ∀ s t : State, step s = .next t → (t.vsize ≠ s.vsize ∨ t.skip ≠ s.skip) →
    (s.edge.rst = true ∧ t.vsize = 0 ∧ t.skip = 0) ∨
    (s.edge.rst = false ∧ s.phase = .hdr ∧ s.hpos = 7 ∧ Const.legalProfile t.vsize t.skip = true)

/-- R170: the phase transitions and their conditions. -/
def Obligations.PhaseTransitions : Prop :=
  ∀ s t : State, step s = .next t →
    (s.edge.rst = true ∧ t.phase = .hdr) ∨
    (s.edge.rst = false ∧
      (t.phase = s.phase ∨
       (s.phase = .hdr ∧ t.phase = .body ∧ (s.hpos = 31 ∨ (s.edge.inLast = true ∧ 7 ≤ s.hpos.toNat))) ∨
       (s.phase = .hdr ∧ t.phase = .err ∧ (s.hpos = 3 ∨ s.hpos = 7 ∨ (s.edge.inLast = true ∧ s.hpos.toNat ≤ 6))) ∨
       (s.phase = .body ∧ t.phase = .emit ∧ s.gidx = 127 ∧ s.gcnt = 6) ∨
       (s.phase = .emit ∧ t.phase = .done ∧ s.x.toNat + 1 = s.vsize.toNat ∧ s.y.toNat + 1 = s.vsize.toNat)))

/-- R187, R205, R170: DONE and ERR hold every register until reset. -/
def Obligations.TerminalPhasesHold : Prop :=
  ∀ s : State, (s.phase = .done ∨ s.phase = .err) → s.edge.rst = false →
    step s = .next { s with edges := s.edges.tail, cycle := s.cycle + 1 }

/-- R31, R63: an IDXBUF entry changes only in BODY, at the seventh byte of a group, inside that group's eight entries. -/
def Obligations.IndexBufferChangesOnlyInBody : Prop :=
  ∀ s t : State, step s = .next t → ∀ a, bufGet t.idxbuf a ≠ bufGet s.idxbuf a →
    s.edge.rst = false ∧ s.phase = .body ∧ s.gcnt = 6 ∧ 8 * s.gidx.toNat ≤ a ∧ a < 8 * s.gidx.toNat + 8

/-- R26, R29, R187: SHORT is set only by a pad step and ERRC only by a trap out of HDR; reset alone clears them. -/
def Obligations.ShortAndCauseAreSticky : Prop :=
  ∀ s t : State, step s = .next t →
    (t.short ≠ s.short → (s.edge.rst = true ∧ t.short = false) ∨ (s.phase = .body ∧ s.eof = true ∧ t.short = true)) ∧
    (t.errc ≠ s.errc → (s.edge.rst = true ∧ t.errc = .noCause) ∨
      (s.phase = .hdr ∧ t.phase = .err ∧ t.errc ≠ .noCause))

/-- R38, R211, R165: while the block is not willing nothing changes but the clock edge; a pixel on offer that the host does
not take stays as it is. -/
def Obligations.EdgesWithoutATransferChangeNothing : Prop :=
  ∀ s : State, s.edge.rst = false →
    (s.edge.go = false → step s = .next { s with edges := s.edges.tail, cycle := s.cycle + 1 }) ∧
    (s.phase = .emit → s.edge.outReady = false →
      ∃ t, step s = .next t ∧ t.phase = .emit ∧ t.pixels = s.pixels ∧ pixelNow t = pixelNow s ∧
        lastPosition t.vsize t.y t.x = lastPosition s.vsize s.y s.x)

/-- R84 (a), R107, U1, U2: what file bytes 4, 5 and 8 to 31 hold has no effect: two edges that differ in `in_data` alone lead
to states that differ in nothing but the model's own record of the byte. -/
def Obligations.ReservedBytesHaveNoEffect : Prop :=
  ∀ (s : State) (e : Edge) (es : List Edge) (d : Byte) (t : State), s.edges = e :: es → s.phase = .hdr →
    (s.hpos.toNat = 4 ∨ s.hpos.toNat = 5 ∨ 8 ≤ s.hpos.toNat) → step s = .next t →
    ∃ t', step { s with edges := { e with inData := d } :: es } = .next t' ∧
      t' = { t with file := t'.file, wires := t'.wires }

/-- R35, R166, R186: output leaves only in EMIT, one transfer a step, with the words the ports show; a reset closes the
frame's record and keeps it (log entry 5). -/
def Obligations.OutputLeavesOnlyInEmit : Prop :=
  ∀ s t : State, step s = .next t →
    (s.edge.rst = false ∧ t.pixels = s.pixels ∧ t.earlier = s.earlier) ∨
    (s.edge.rst = true ∧ t.pixels = [] ∧ t.earlier = s.earlier ++ s.pixels) ∨
    (s.edge.rst = false ∧ s.phase = .emit ∧ s.edge.outReady = true ∧ outValid s = true ∧
      t.pixels = s.pixels ++ [{ data := outData s, last := outLast s }] ∧ t.earlier = s.earlier)

/-! ### Invariants -/

/-- R39, R57, U18: in a state that meets the register invariant a clock edge never stops the machine. -/
def Obligations.InvariantStatesNeverStop : Prop :=
  ∀ s : State, RegInv s → ∃ t, step s = .next t

/-- R39: every clock edge keeps the register invariant. -/
def Obligations.StepKeepsTheRegisterInvariant : Prop :=
  ∀ s t : State, RegInv s → step s = .next t → RegInv t

/-- R169, R39, R125: every clock edge keeps the frame invariant: the registers are what the bytes delivered so far make them,
and a frame that is over has ended as the whole-frame function says. -/
def Obligations.StepKeepsTheFrameInvariant : Prop :=
  ∀ s t : State, FrameInv s → step s = .next t → FrameInv t

/-- R31: every clock edge keeps IDXBUF in its canonical form, from any state. -/
def Obligations.StepKeepsTheBufferForm : Prop :=
  ∀ s t : State, Memory.wf s.idxbuf = true → step s = .next t → Memory.wf t.idxbuf = true

/-- R39, R40: the reset state meets both invariants, whatever the host is going to drive. -/
def Obligations.ResetMeetsTheInvariants : Prop :=
  ∀ es : List Edge, RegInv { State.reset with edges := es } ∧ FrameInv { State.reset with edges := es }

/-- R169, R39: whatever the host drives, every state reached from reset meets the frame invariant. -/
def Obligations.EveryReachableStateMeetsTheFrameInvariant : Prop :=
  ∀ (es : List Edge) (n : Nat) (t : State),
    Sys2Proof.core.run n { State.reset with edges := es } = Host.Outcome.next t → FrameInv t

/-- R210, R211: an edge at which host and block are willing performs a step that leaves less work. -/
def Obligations.WillingEdgeMakesProgress : Prop :=
  ∀ s : State, RegInv s → ¬ FrameOver s → willing s = true →
    ∃ t, step s = .next t ∧ workLeft t < workLeft s
end

