-- ==== Sys2Proof/Laws/Constants.lean ====
section
/-! SUPPORT. Laws/Constants.lean: the named constants as numerals, the derived addresses over them, and the three profiles
as three cases. -/

namespace Sys2Proof.Machine

@[simp] theorem magicLen_eq : Const.magicLen = 4 := rfl
@[simp] theorem magicLast_eq : Const.magicLast = 3 := rfl
@[simp] theorem dimLoPos_eq : Const.dimLoPos = 6 := rfl
@[simp] theorem dimHiPos_eq : Const.dimHiPos = 7 := rfl
@[simp] theorem grpLast_eq : Const.grpLast = 6 := rfl
@[simp] theorem dimOff_eq : Const.dimOff = 6 := rfl
@[simp] theorem hdrMin_eq : Const.hdrMin = 8 := rfl
@[simp] theorem bodyOff_eq : Const.bodyOff = 32 := rfl
@[simp] theorem grpIn_eq : Const.grpIn = 7 := rfl
@[simp] theorem grpOut_eq : Const.grpOut = 8 := rfl
@[simp] theorem nGroups_eq : Const.nGroups = 128 := rfl
@[simp] theorem bodyLen_eq : Const.bodyLen = 896 := rfl
@[simp] theorem frameLen_eq : Const.frameLen = 928 := rfl
@[simp] theorem bufLen_eq : Const.bufLen = 1024 := rfl
@[simp] theorem bufStride_eq : Const.bufStride = 32 := rfl
@[simp] theorem palLen_eq : Const.palLen = 96 := rfl

theorem bodyOffset_eq (i : BitVec 8) (g : BitVec 3) : bodyOffset i g = 7 * i.toNat + g.toNat := rfl

theorem groupBase_eq (i : BitVec 8) : groupBase i = 8 * i.toNat := rfl

theorem mapAddr_eq (k : BitVec 4) (y x : BitVec 5) : mapAddr k y x = k.toNat + (k.toNat + y.toNat) * 32 + x.toNat := rfl

/-- MAGIC as a list of four bytes. -/
theorem magic_getD : ∀ p : BitVec 2, Const.magic p = [(0x50 : Byte), 0x49, 0x58, 0x42].getD p.toNat 0 := by decide

/-- The three pairs of DIMTAB (R28). -/
theorem legalProfile_cases {v : BitVec 6} {k : BitVec 4} (h : Const.legalProfile v k = true) :
    (v = 16 ∧ k = 8) ∨ (v = 24 ∧ k = 4) ∨ (v = 32 ∧ k = 0) := by
  simpa [Const.legalProfile, Const.dim0, Const.dim1, Const.dim2, or_assoc] using h

/-- A side length at least 16 and at most 32 that leaves the window inside the grid (R133). -/
theorem legalProfile_bounds {v : BitVec 6} {k : BitVec 4} (h : Const.legalProfile v k = true) :
    16 ≤ v.toNat ∧ v.toNat ≤ 32 ∧ k.toNat + v.toNat ≤ 32 := by
  rcases legalProfile_cases h with ⟨rfl, rfl⟩ | ⟨rfl, rfl⟩ | ⟨rfl, rfl⟩ <;> decide

/-- DIMTAB by the two code bytes, without the signed code (R80 a). -/
theorem profileOf_code16 (d l : Byte) : Const.profileOf (code16 d l).toInt =
    if 256 * d.toNat + l.toNat = 0 then some Const.dim0 else if 256 * d.toNat + l.toNat = 1 then some Const.dim1
    else if 256 * d.toNat + l.toNat = 2 then some Const.dim2 else none := by
  have hn : (code16 d l).toNat = 256 * d.toNat + l.toNat := by
    rw [code16, BitVec.toNat_append, ← Nat.shiftLeft_add_eq_or_of_lt l.isLt, Nat.shiftLeft_eq]
    omega
  have hi : (code16 d l).toInt =
      if 2 * (code16 d l).toNat < 65536 then ((code16 d l).toNat : Int) else (code16 d l).toNat - 65536 := by
    simp [BitVec.toInt]
  have hd := d.isLt
  have hl := l.isLt
  simp only [Const.profileOf, hi, hn]
  split_ifs <;> first | rfl | omega

end Sys2Proof.Machine
end

