-- ==== Sys2Proof/Laws/Frame.lean ====
section
/-! SUPPORT. Laws/Frame.lean: what one more byte at the end of a file changes in the functions of Machine/Frame.lean. -/

namespace Sys2Proof.Machine

theorem getD_append_one (f : List Byte) (d : Byte) (k : Nat) :
    (f ++ [d]).getD k 0 = if k < f.length then f.getD k 0 else if k = f.length then d else 0 := by
  simp only [List.getD_eq_getElem?_getD]
  by_cases h : k < f.length
  · rw [if_pos h, List.getElem?_append_left h]
  · rw [if_neg h, List.getElem?_append_right (by omega)]
    by_cases e : k = f.length
    · simp [e]
    · rw [if_neg e, List.getElem?_eq_none (by simp; omega)]
      rfl

theorem bodyByte_append (f : List Byte) (d : Byte) (j : Nat) :
    bodyByte (f ++ [d]) j = if 32 + j < f.length then bodyByte f j else if 32 + j = f.length then d else 0 :=
  getD_append_one f d (32 + j)

/-- A body byte that the file does not have reads as zero (R125). -/
theorem bodyByte_missing {f : List Byte} {j : Nat} (h : f.length ≤ 32 + j) : bodyByte f j = 0 := by
  simp only [bodyByte, bodyOff_eq, List.getD_eq_getElem?_getD, List.getElem?_eq_none h]
  rfl

/-- The magic of the bytes delivered so far, byte by byte. -/
theorem magicSoFar_iff (f : List Byte) :
    magicSoFar f = true ↔ ∀ k, k < 4 → f.length ≤ k ∨ f.getD k 0 = Const.magic (BitVec.ofNat 2 k) := by
  simp only [magicSoFar, magicLen_eq, List.all_eq_true, List.mem_range, Bool.or_eq_true, decide_eq_true_eq, beq_iff_eq]

/-- A magic byte is added to the comparison. -/
theorem magicSoFar_append (f : List Byte) (d : Byte) (h : f.length ≤ 3) :
    magicSoFar (f ++ [d]) = (magicSoFar f && decide (d = Const.magic (BitVec.ofNat 2 f.length))) := by
  rw [Bool.eq_iff_iff, Bool.and_eq_true, decide_eq_true_eq, magicSoFar_iff, magicSoFar_iff]
  simp only [getD_append_one, List.length_append, List.length_singleton]
  constructor
  · intro a
    refine ⟨fun k hk => ?_, ?_⟩
    · by_cases c : k < f.length
      · have := a k hk
        rw [if_pos c] at this
        exact this.imp (by omega) id
      · exact .inl (by omega)
    · have := a f.length (by omega)
      simpa using this
  · rintro ⟨a, b⟩ k hk
    by_cases c : k < f.length
    · rw [if_pos c]
      exact .inr ((a k hk).resolve_left (by omega))
    · by_cases e : k = f.length
      · subst e
        simp [b]
      · exact .inl (by omega)

/-- Later bytes have no part in it. -/
theorem magicSoFar_append_late (f : List Byte) (d : Byte) (h : 4 ≤ f.length) : magicSoFar (f ++ [d]) = magicSoFar f := by
  rw [Bool.eq_iff_iff, magicSoFar_iff, magicSoFar_iff]
  simp only [getD_append_one, List.length_append, List.length_singleton]
  refine forall_congr' fun k => forall_congr' fun hk => ?_
  rw [if_pos (by omega)]
  constructor <;> exact Or.imp (by omega) id

theorem frameCode_append (f : List Byte) (d : Byte) (h : 8 ≤ f.length) : frameCode (f ++ [d]) = frameCode f := by
  simp only [frameCode, dimOff_eq, getD_append_one]
  rw [if_pos (by omega), if_pos (by omega)]

/-- The code is whole with the eighth byte. -/
theorem frameCode_append_eighth (f : List Byte) (d : Byte) (h : f.length = 7) :
    frameCode (f ++ [d]) = code16 d (f.getD 6 0) := by
  simp [frameCode, h]

theorem headerGood_append {f : List Byte} {p : Const.Profile} (d : Byte) (h : headerGood f p) : headerGood (f ++ [d]) p := by
  obtain ⟨h1, h2, h3⟩ := h
  have h1' : 8 ≤ f.length := h1
  refine ⟨by simp; omega, ?_, ?_⟩
  · rw [magicSoFar_append_late _ _ (by omega)]
    exact h2
  · rw [frameCode_append _ _ h1']
    exact h3

/-- The index at entry `a` of a file, with the group constants as numerals. -/
theorem frameIndex_eq (f : List Byte) (a : Nat) : frameIndex f a =
    (expandLanes (bodyByte f (7 * (a / 8))) (bodyByte f (7 * (a / 8) + 1)) (bodyByte f (7 * (a / 8) + 2))
      (bodyByte f (7 * (a / 8) + 3)) (bodyByte f (7 * (a / 8) + 4)) (bodyByte f (7 * (a / 8) + 5))
      (bodyByte f (7 * (a / 8) + 6))).toList.getD (a % 8) 0 := rfl

/-- A group whose bytes are all before the end of the file is not changed by one more byte. -/
theorem frameIndex_append (f : List Byte) (d : Byte) (a : Nat) (h : 32 + 7 * (a / 8) + 6 < f.length) :
    frameIndex (f ++ [d]) a = frameIndex f a := by
  simp only [frameIndex_eq, bodyByte_append]
  rw [if_pos (by omega), if_pos (by omega), if_pos (by omega), if_pos (by omega), if_pos (by omega), if_pos (by omega),
    if_pos (by omega)]

/-- The whole-frame function of a file with a good header (R169). -/
theorem decodeFrame_good {f : List Byte} {m : Mode} {p : Const.Profile} (h : headerGood f p) :
    decodeFrame f m = .ok p (frameBeats f m p) (decide (f.length < Const.frameLen)) := by
  obtain ⟨h1, h2, h3⟩ := h
  rw [decodeFrame, if_neg (by rw [h2]; simp), if_neg (Nat.not_lt.2 h1), h3]

end Sys2Proof.Machine
end

