-- ==== Sys2Proof/Laws/Group.lean ====
section
/-! SUPPORT. Laws/Group.lean: the bits of F-GRP, byte by byte and lane by lane. -/

namespace Sys2Proof.Machine

/-- Bit `j` of a group is bit `j mod 8` of its byte `j div 8` (R72). -/
theorem groupWord_getLsbD (b0 b1 b2 b3 b4 b5 b6 : Byte) (j : Nat) :
    (groupWord b0 b1 b2 b3 b4 b5 b6).getLsbD j =
      if j < 8 then b0.getLsbD j else if j < 16 then b1.getLsbD (j - 8) else if j < 24 then b2.getLsbD (j - 16)
      else if j < 32 then b3.getLsbD (j - 24) else if j < 40 then b4.getLsbD (j - 32)
      else if j < 48 then b5.getLsbD (j - 40) else b6.getLsbD (j - 48) := by
  refine (BitVec.getLsbD_append (x := b6 ++ b5 ++ b4 ++ b3 ++ b2 ++ b1) (y := b0)).trans ?_
  simp only [BitVec.getLsbD_append]
  split_ifs <;> first | rfl | omega

/-- Bit `j` of lane `k` is bit `7 k + j` of the group (R72). -/
theorem laneField_getLsbD (g : BitVec 56) (k j : Nat) :
    (laneField g k).getLsbD j = (decide (j < 7) && g.getLsbD (7 * k + j)) := by
  by_cases h : j < 7
  · simp [laneField, h, show j < 8 by omega]
  · simp [laneField, h]

/-- A lane has seven bits. -/
theorem laneField_lt (g : BitVec 56) (k : Nat) : (laneField g k).toNat < 128 := by
  have h := (g.extractLsb' (7 * k) 7).isLt
  simp only [laneField, BitVec.toNat_setWidth]
  omega

end Sys2Proof.Machine
end

