-- ==== Sys2Proof/Laws/Idxbuf.lean ====
section
/-! SUPPORT. Laws/Idxbuf.lean: reads and writes of IDXBUF: a read after a write, what a write leaves alone, and that every
write keeps the canonical form. -/

namespace Sys2Proof.Machine

theorem bufWfFrom_mono {lo lo' : Nat} (h : lo' ≤ lo) : ∀ m, Memory.wfFrom lo m = true → Memory.wfFrom lo' m = true
  | [] => fun _ => rfl
  | (k, u) :: m => fun hw => by
    simp only [Memory.wfFrom, Bool.and_eq_true, decide_eq_true_eq] at hw ⊢
    exact ⟨⟨by omega, hw.1.2⟩, hw.2⟩

/-- An address below every listed cell reads as the default. -/
theorem bufGet_below : ∀ {lo : Nat} (m : Idxbuf) {a : Nat}, Memory.wfFrom lo m = true → a < lo → bufGet m a = bufDefault
  | _, [], _, _, _ => rfl
  | lo, (k, u) :: m, a, hw, h => by
    simp only [Memory.wfFrom, Bool.and_eq_true, decide_eq_true_eq] at hw
    have : a ≠ k := by omega
    simp only [bufGet, this, if_false]
    exact bufGet_below m hw.2 (by omega)

/-- A write leaves every other address alone, in any list. -/
theorem bufGet_bufSet_ne : ∀ (m : Idxbuf) {a c : Nat} (v : Byte), c ≠ a → bufGet (bufSet m a v) c = bufGet m c
  | [], a, c, v, h => by
    by_cases hv : v = bufDefault <;> simp [bufSet, hv, bufGet, h]
  | (k, u) :: m, a, c, v, h => by
    simp only [bufSet]
    split
    · split <;> simp [bufGet, h]
    · split
      · rename_i h2
        subst h2
        split <;> simp [bufGet, h]
      · simp [bufGet, bufGet_bufSet_ne m v h]

/-- A read after a write to the same address gives the value written. -/
theorem bufGet_bufSet_self : ∀ {lo : Nat} (m : Idxbuf) (a : Nat) (v : Byte), Memory.wfFrom lo m = true →
    bufGet (bufSet m a v) a = v
  | _, [], a, v, _ => by
    by_cases hv : v = bufDefault <;> simp [bufSet, hv, bufGet]
  | lo, (k, u) :: m, a, v, hw => by
    have hw' := hw
    simp only [Memory.wfFrom, Bool.and_eq_true, decide_eq_true_eq] at hw'
    simp only [bufSet]
    split
    · rename_i hlt
      split
      · rename_i hv
        rw [hv]
        refine bufGet_below (lo := k) _ ?_ hlt
        simp only [Memory.wfFrom, Bool.and_eq_true, decide_eq_true_eq]
        exact ⟨⟨Nat.le_refl k, hw'.1.2⟩, hw'.2⟩
      · simp [bufGet]
    · split
      · rename_i h2
        subst h2
        split
        · rename_i hv
          rw [hv]
          exact bufGet_below m hw'.2 (by omega)
        · simp [bufGet]
      · rename_i h2
        simp [bufGet, h2, bufGet_bufSet_self m a v hw'.2]

theorem bufWfFrom_bufSet : ∀ {lo : Nat} (m : Idxbuf) {a : Nat} (v : Byte), Memory.wfFrom lo m = true → lo ≤ a →
    a < Const.bufLen → Memory.wfFrom lo (bufSet m a v) = true
  | lo, [], a, v, _, hl, ha => by
    by_cases hv : v = bufDefault
    · simp only [bufSet, hv, if_true, Memory.wfFrom]
    · simp only [bufSet, hv, if_false, Memory.wfFrom, Bool.and_true, decide_eq_true_eq]
      exact ⟨hl, ha, hv⟩
  | lo, (k, u) :: m, a, v, hw, hl, ha => by
    have hw' := hw
    simp only [Memory.wfFrom, Bool.and_eq_true, decide_eq_true_eq] at hw'
    simp only [bufSet]
    split
    · rename_i hlt
      split
      · exact hw
      · rename_i hv
        simp only [Memory.wfFrom, Bool.and_eq_true, decide_eq_true_eq]
        exact ⟨⟨hl, ha, hv⟩, ⟨by omega, hw'.1.2⟩, hw'.2⟩
    · split
      · rename_i h2
        subst h2
        split
        · exact bufWfFrom_mono (by omega) m hw'.2
        · rename_i hv
          simp only [Memory.wfFrom, Bool.and_eq_true, decide_eq_true_eq]
          exact ⟨⟨hl, ha, hv⟩, hw'.2⟩
      · simp only [Memory.wfFrom, Bool.and_eq_true, decide_eq_true_eq]
        exact ⟨hw'.1, bufWfFrom_bufSet m v hw'.2 (by omega) ha⟩

/-- The buffer after reset is in canonical form. -/
theorem reset_bufWf : Memory.wf State.reset.idxbuf = true := rfl

/-- A write inside IDXBUF keeps the canonical form. -/
theorem bufWf_bufSet (m : Idxbuf) {a : Nat} (v : Byte) (h : Memory.wf m = true) (ha : a < Const.bufLen) :
    Memory.wf (bufSet m a v) = true :=
  bufWfFrom_bufSet m v h (Nat.zero_le a) ha

/-- Consecutive writes inside IDXBUF keep the canonical form. -/
theorem bufWf_bufStore : ∀ (vs : List Byte) (m : Idxbuf) (a : Nat), Memory.wf m = true → a + vs.length ≤ Const.bufLen →
    Memory.wf (bufStore m a vs) = true
  | [], _, _, h, _ => h
  | v :: vs, m, a, h, ha => by
    simp only [List.length_cons] at ha
    exact bufWf_bufStore vs _ _ (bufWf_bufSet m v h (by omega)) (by omega)

/-- Consecutive writes leave every address outside them alone, in any list. -/
theorem bufGet_bufStore_outside : ∀ (vs : List Byte) (m : Idxbuf) (a c : Nat), (c < a ∨ a + vs.length ≤ c) →
    bufGet (bufStore m a vs) c = bufGet m c
  | [], _, _, _, _ => rfl
  | v :: vs, m, a, c, h => by
    simp only [List.length_cons] at h
    rw [bufStore, bufGet_bufStore_outside vs _ (a + 1) c (by omega), bufGet_bufSet_ne m v (by omega)]

/-- Consecutive writes put each value at its own address. -/
theorem bufGet_bufStore_inside : ∀ (vs : List Byte) (m : Idxbuf) (a k : Nat), Memory.wf m = true →
    a + vs.length ≤ Const.bufLen → (hk : k < vs.length) → bufGet (bufStore m a vs) (a + k) = vs[k]
  | v :: vs, m, a, k, h, ha, hk => by
    simp only [List.length_cons] at ha hk
    have hset := bufWf_bufSet m (a := a) v h (by omega)
    rw [bufStore]
    cases k with
    | zero => rw [bufGet_bufStore_outside vs _ (a + 1) (a + 0) (by omega)]; exact bufGet_bufSet_self m a v h
    | succ k =>
      have := bufGet_bufStore_inside vs (bufSet m a v) (a + 1) k hset (by omega) (by omega)
      rw [show a + (k + 1) = a + 1 + k by omega, this]
      rfl

end Sys2Proof.Machine
end

