-- ==== Sys2Proof/Laws/State.lean ====
section
/-! SUPPORT. Laws/State.lean: what each named update of the state leaves in each field, one lemma a field, so that no proof
unfolds a record update. -/

namespace Sys2Proof.Machine

/-! ### `State.trapEntry` -/

@[simp] theorem State.trapEntry_phase (c : ErrCause) (s : State) : (s.trapEntry c).phase = .err := rfl
@[simp] theorem State.trapEntry_hpos (c : ErrCause) (s : State) : (s.trapEntry c).hpos = s.hpos := rfl
@[simp] theorem State.trapEntry_magok (c : ErrCause) (s : State) : (s.trapEntry c).magok = s.magok := rfl
@[simp] theorem State.trapEntry_dimlo (c : ErrCause) (s : State) : (s.trapEntry c).dimlo = s.dimlo := rfl
@[simp] theorem State.trapEntry_mode (c : ErrCause) (s : State) : (s.trapEntry c).mode = s.mode := rfl
@[simp] theorem State.trapEntry_vsize (c : ErrCause) (s : State) : (s.trapEntry c).vsize = s.vsize := rfl
@[simp] theorem State.trapEntry_skip (c : ErrCause) (s : State) : (s.trapEntry c).skip = s.skip := rfl
@[simp] theorem State.trapEntry_eof (c : ErrCause) (s : State) : (s.trapEntry c).eof = s.eof := rfl
@[simp] theorem State.trapEntry_short (c : ErrCause) (s : State) : (s.trapEntry c).short = s.short := rfl
@[simp] theorem State.trapEntry_errc (c : ErrCause) (s : State) : (s.trapEntry c).errc = c := rfl
@[simp] theorem State.trapEntry_b (c : ErrCause) (s : State) : (s.trapEntry c).b = s.b := rfl
@[simp] theorem State.trapEntry_gcnt (c : ErrCause) (s : State) : (s.trapEntry c).gcnt = s.gcnt := rfl
@[simp] theorem State.trapEntry_gidx (c : ErrCause) (s : State) : (s.trapEntry c).gidx = s.gidx := rfl
@[simp] theorem State.trapEntry_idxbuf (c : ErrCause) (s : State) : (s.trapEntry c).idxbuf = s.idxbuf := rfl
@[simp] theorem State.trapEntry_x (c : ErrCause) (s : State) : (s.trapEntry c).x = s.x := rfl
@[simp] theorem State.trapEntry_y (c : ErrCause) (s : State) : (s.trapEntry c).y = s.y := rfl
@[simp] theorem State.trapEntry_wires (c : ErrCause) (s : State) : (s.trapEntry c).wires = s.wires := rfl
@[simp] theorem State.trapEntry_edges (c : ErrCause) (s : State) : (s.trapEntry c).edges = s.edges := rfl
@[simp] theorem State.trapEntry_file (c : ErrCause) (s : State) : (s.trapEntry c).file = s.file := rfl
@[simp] theorem State.trapEntry_pixels (c : ErrCause) (s : State) : (s.trapEntry c).pixels = s.pixels := rfl
@[simp] theorem State.trapEntry_earlier (c : ErrCause) (s : State) : (s.trapEntry c).earlier = s.earlier := rfl
@[simp] theorem State.trapEntry_cycle (c : ErrCause) (s : State) : (s.trapEntry c).cycle = s.cycle := rfl
@[simp] theorem State.trapEntry_edge (c : ErrCause) (s : State) : (s.trapEntry c).edge = s.edge := rfl

/-! ### `State.withByte` -/

@[simp] theorem State.withByte_phase (d : Byte) (s : State) : (s.withByte d).phase = s.phase := rfl
@[simp] theorem State.withByte_hpos (d : Byte) (s : State) : (s.withByte d).hpos = s.hpos := rfl
@[simp] theorem State.withByte_magok (d : Byte) (s : State) : (s.withByte d).magok = s.magok := rfl
@[simp] theorem State.withByte_dimlo (d : Byte) (s : State) : (s.withByte d).dimlo = s.dimlo := rfl
@[simp] theorem State.withByte_mode (d : Byte) (s : State) : (s.withByte d).mode = s.mode := rfl
@[simp] theorem State.withByte_vsize (d : Byte) (s : State) : (s.withByte d).vsize = s.vsize := rfl
@[simp] theorem State.withByte_skip (d : Byte) (s : State) : (s.withByte d).skip = s.skip := rfl
@[simp] theorem State.withByte_eof (d : Byte) (s : State) : (s.withByte d).eof = s.eof := rfl
@[simp] theorem State.withByte_short (d : Byte) (s : State) : (s.withByte d).short = s.short := rfl
@[simp] theorem State.withByte_errc (d : Byte) (s : State) : (s.withByte d).errc = s.errc := rfl
@[simp] theorem State.withByte_b (d : Byte) (s : State) : (s.withByte d).b = s.b := rfl
@[simp] theorem State.withByte_gcnt (d : Byte) (s : State) : (s.withByte d).gcnt = s.gcnt := rfl
@[simp] theorem State.withByte_gidx (d : Byte) (s : State) : (s.withByte d).gidx = s.gidx := rfl
@[simp] theorem State.withByte_idxbuf (d : Byte) (s : State) : (s.withByte d).idxbuf = s.idxbuf := rfl
@[simp] theorem State.withByte_x (d : Byte) (s : State) : (s.withByte d).x = s.x := rfl
@[simp] theorem State.withByte_y (d : Byte) (s : State) : (s.withByte d).y = s.y := rfl
@[simp] theorem State.withByte_wires (d : Byte) (s : State) : (s.withByte d).wires = { s.wires with d := d } := rfl
@[simp] theorem State.withByte_edges (d : Byte) (s : State) : (s.withByte d).edges = s.edges := rfl
@[simp] theorem State.withByte_file (d : Byte) (s : State) : (s.withByte d).file = s.file := rfl
@[simp] theorem State.withByte_pixels (d : Byte) (s : State) : (s.withByte d).pixels = s.pixels := rfl
@[simp] theorem State.withByte_earlier (d : Byte) (s : State) : (s.withByte d).earlier = s.earlier := rfl
@[simp] theorem State.withByte_cycle (d : Byte) (s : State) : (s.withByte d).cycle = s.cycle := rfl
@[simp] theorem State.withByte_edge (d : Byte) (s : State) : (s.withByte d).edge = s.edge := rfl

/-! ### `State.acceptByte` -/

@[simp] theorem State.acceptByte_phase (s : State) : (s.acceptByte).phase = s.phase := rfl
@[simp] theorem State.acceptByte_hpos (s : State) : (s.acceptByte).hpos = s.hpos := rfl
@[simp] theorem State.acceptByte_magok (s : State) : (s.acceptByte).magok = s.magok := rfl
@[simp] theorem State.acceptByte_dimlo (s : State) : (s.acceptByte).dimlo = s.dimlo := rfl
@[simp] theorem State.acceptByte_mode (s : State) : (s.acceptByte).mode = s.mode := rfl
@[simp] theorem State.acceptByte_vsize (s : State) : (s.acceptByte).vsize = s.vsize := rfl
@[simp] theorem State.acceptByte_skip (s : State) : (s.acceptByte).skip = s.skip := rfl
@[simp] theorem State.acceptByte_eof (s : State) : (s.acceptByte).eof = s.eof := rfl
@[simp] theorem State.acceptByte_short (s : State) : (s.acceptByte).short = s.short := rfl
@[simp] theorem State.acceptByte_errc (s : State) : (s.acceptByte).errc = s.errc := rfl
@[simp] theorem State.acceptByte_b (s : State) : (s.acceptByte).b = s.b := rfl
@[simp] theorem State.acceptByte_gcnt (s : State) : (s.acceptByte).gcnt = s.gcnt := rfl
@[simp] theorem State.acceptByte_gidx (s : State) : (s.acceptByte).gidx = s.gidx := rfl
@[simp] theorem State.acceptByte_idxbuf (s : State) : (s.acceptByte).idxbuf = s.idxbuf := rfl
@[simp] theorem State.acceptByte_x (s : State) : (s.acceptByte).x = s.x := rfl
@[simp] theorem State.acceptByte_y (s : State) : (s.acceptByte).y = s.y := rfl
@[simp] theorem State.acceptByte_wires (s : State) : (s.acceptByte).wires = { s.wires with d := s.edge.inData } := rfl
@[simp] theorem State.acceptByte_edges (s : State) : (s.acceptByte).edges = s.edges := rfl
@[simp] theorem State.acceptByte_file (s : State) : (s.acceptByte).file = s.file ++ [s.edge.inData] := rfl
@[simp] theorem State.acceptByte_pixels (s : State) : (s.acceptByte).pixels = s.pixels := rfl
@[simp] theorem State.acceptByte_earlier (s : State) : (s.acceptByte).earlier = s.earlier := rfl
@[simp] theorem State.acceptByte_cycle (s : State) : (s.acceptByte).cycle = s.cycle := rfl
@[simp] theorem State.acceptByte_edge (s : State) : (s.acceptByte).edge = s.edge := rfl

/-! ### `State.latchMode` -/

@[simp] theorem State.latchMode_phase (s : State) : (s.latchMode).phase = s.phase := rfl
@[simp] theorem State.latchMode_hpos (s : State) : (s.latchMode).hpos = s.hpos := rfl
@[simp] theorem State.latchMode_magok (s : State) : (s.latchMode).magok = s.magok := rfl
@[simp] theorem State.latchMode_dimlo (s : State) : (s.latchMode).dimlo = s.dimlo := rfl
@[simp] theorem State.latchMode_mode (s : State) : (s.latchMode).mode = if s.hpos = 0 then modeOf s.edge.cfgStencil else s.mode := rfl
@[simp] theorem State.latchMode_vsize (s : State) : (s.latchMode).vsize = s.vsize := rfl
@[simp] theorem State.latchMode_skip (s : State) : (s.latchMode).skip = s.skip := rfl
@[simp] theorem State.latchMode_eof (s : State) : (s.latchMode).eof = s.eof := rfl
@[simp] theorem State.latchMode_short (s : State) : (s.latchMode).short = s.short := rfl
@[simp] theorem State.latchMode_errc (s : State) : (s.latchMode).errc = s.errc := rfl
@[simp] theorem State.latchMode_b (s : State) : (s.latchMode).b = s.b := rfl
@[simp] theorem State.latchMode_gcnt (s : State) : (s.latchMode).gcnt = s.gcnt := rfl
@[simp] theorem State.latchMode_gidx (s : State) : (s.latchMode).gidx = s.gidx := rfl
@[simp] theorem State.latchMode_idxbuf (s : State) : (s.latchMode).idxbuf = s.idxbuf := rfl
@[simp] theorem State.latchMode_x (s : State) : (s.latchMode).x = s.x := rfl
@[simp] theorem State.latchMode_y (s : State) : (s.latchMode).y = s.y := rfl
@[simp] theorem State.latchMode_wires (s : State) : (s.latchMode).wires = s.wires := rfl
@[simp] theorem State.latchMode_edges (s : State) : (s.latchMode).edges = s.edges := rfl
@[simp] theorem State.latchMode_file (s : State) : (s.latchMode).file = s.file := rfl
@[simp] theorem State.latchMode_pixels (s : State) : (s.latchMode).pixels = s.pixels := rfl
@[simp] theorem State.latchMode_earlier (s : State) : (s.latchMode).earlier = s.earlier := rfl
@[simp] theorem State.latchMode_cycle (s : State) : (s.latchMode).cycle = s.cycle := rfl
@[simp] theorem State.latchMode_edge (s : State) : (s.latchMode).edge = s.edge := rfl

/-! ### `State.setProfile` -/

@[simp] theorem State.setProfile_phase (p : Const.Profile) (s : State) : (s.setProfile p).phase = s.phase := rfl
@[simp] theorem State.setProfile_hpos (p : Const.Profile) (s : State) : (s.setProfile p).hpos = s.hpos := rfl
@[simp] theorem State.setProfile_magok (p : Const.Profile) (s : State) : (s.setProfile p).magok = s.magok := rfl
@[simp] theorem State.setProfile_dimlo (p : Const.Profile) (s : State) : (s.setProfile p).dimlo = s.dimlo := rfl
@[simp] theorem State.setProfile_mode (p : Const.Profile) (s : State) : (s.setProfile p).mode = s.mode := rfl
@[simp] theorem State.setProfile_vsize (p : Const.Profile) (s : State) : (s.setProfile p).vsize = p.vsize := rfl
@[simp] theorem State.setProfile_skip (p : Const.Profile) (s : State) : (s.setProfile p).skip = p.skip := rfl
@[simp] theorem State.setProfile_eof (p : Const.Profile) (s : State) : (s.setProfile p).eof = s.eof := rfl
@[simp] theorem State.setProfile_short (p : Const.Profile) (s : State) : (s.setProfile p).short = s.short := rfl
@[simp] theorem State.setProfile_errc (p : Const.Profile) (s : State) : (s.setProfile p).errc = s.errc := rfl
@[simp] theorem State.setProfile_b (p : Const.Profile) (s : State) : (s.setProfile p).b = s.b := rfl
@[simp] theorem State.setProfile_gcnt (p : Const.Profile) (s : State) : (s.setProfile p).gcnt = s.gcnt := rfl
@[simp] theorem State.setProfile_gidx (p : Const.Profile) (s : State) : (s.setProfile p).gidx = s.gidx := rfl
@[simp] theorem State.setProfile_idxbuf (p : Const.Profile) (s : State) : (s.setProfile p).idxbuf = s.idxbuf := rfl
@[simp] theorem State.setProfile_x (p : Const.Profile) (s : State) : (s.setProfile p).x = s.x := rfl
@[simp] theorem State.setProfile_y (p : Const.Profile) (s : State) : (s.setProfile p).y = s.y := rfl
@[simp] theorem State.setProfile_wires (p : Const.Profile) (s : State) : (s.setProfile p).wires = s.wires := rfl
@[simp] theorem State.setProfile_edges (p : Const.Profile) (s : State) : (s.setProfile p).edges = s.edges := rfl
@[simp] theorem State.setProfile_file (p : Const.Profile) (s : State) : (s.setProfile p).file = s.file := rfl
@[simp] theorem State.setProfile_pixels (p : Const.Profile) (s : State) : (s.setProfile p).pixels = s.pixels := rfl
@[simp] theorem State.setProfile_earlier (p : Const.Profile) (s : State) : (s.setProfile p).earlier = s.earlier := rfl
@[simp] theorem State.setProfile_cycle (p : Const.Profile) (s : State) : (s.setProfile p).cycle = s.cycle := rfl
@[simp] theorem State.setProfile_edge (p : Const.Profile) (s : State) : (s.setProfile p).edge = s.edge := rfl

/-! ### `State.endGroup` -/

@[simp] theorem State.endGroup_phase (s : State) : (s.endGroup).phase = if s.gidx.toNat + 1 = Const.nGroups then .emit else s.phase := rfl
@[simp] theorem State.endGroup_hpos (s : State) : (s.endGroup).hpos = s.hpos := rfl
@[simp] theorem State.endGroup_magok (s : State) : (s.endGroup).magok = s.magok := rfl
@[simp] theorem State.endGroup_dimlo (s : State) : (s.endGroup).dimlo = s.dimlo := rfl
@[simp] theorem State.endGroup_mode (s : State) : (s.endGroup).mode = s.mode := rfl
@[simp] theorem State.endGroup_vsize (s : State) : (s.endGroup).vsize = s.vsize := rfl
@[simp] theorem State.endGroup_skip (s : State) : (s.endGroup).skip = s.skip := rfl
@[simp] theorem State.endGroup_eof (s : State) : (s.endGroup).eof = s.eof := rfl
@[simp] theorem State.endGroup_short (s : State) : (s.endGroup).short = s.short := rfl
@[simp] theorem State.endGroup_errc (s : State) : (s.endGroup).errc = s.errc := rfl
@[simp] theorem State.endGroup_b (s : State) : (s.endGroup).b = s.b := rfl
@[simp] theorem State.endGroup_gcnt (s : State) : (s.endGroup).gcnt = 0 := rfl
@[simp] theorem State.endGroup_gidx (s : State) : (s.endGroup).gidx = s.gidx + 1 := rfl
@[simp] theorem State.endGroup_idxbuf (s : State) : (s.endGroup).idxbuf = s.idxbuf := rfl
@[simp] theorem State.endGroup_x (s : State) : (s.endGroup).x = s.x := rfl
@[simp] theorem State.endGroup_y (s : State) : (s.endGroup).y = s.y := rfl
@[simp] theorem State.endGroup_wires (s : State) : (s.endGroup).wires = s.wires := rfl
@[simp] theorem State.endGroup_edges (s : State) : (s.endGroup).edges = s.edges := rfl
@[simp] theorem State.endGroup_file (s : State) : (s.endGroup).file = s.file := rfl
@[simp] theorem State.endGroup_pixels (s : State) : (s.endGroup).pixels = s.pixels := rfl
@[simp] theorem State.endGroup_earlier (s : State) : (s.endGroup).earlier = s.earlier := rfl
@[simp] theorem State.endGroup_cycle (s : State) : (s.endGroup).cycle = s.cycle := rfl
@[simp] theorem State.endGroup_edge (s : State) : (s.endGroup).edge = s.edge := rfl

/-! ### `State.driveMap` -/

@[simp] theorem State.driveMap_phase (a : BitVec 10) (i : Byte) (s : State) : (s.driveMap a i).phase = s.phase := rfl
@[simp] theorem State.driveMap_hpos (a : BitVec 10) (i : Byte) (s : State) : (s.driveMap a i).hpos = s.hpos := rfl
@[simp] theorem State.driveMap_magok (a : BitVec 10) (i : Byte) (s : State) : (s.driveMap a i).magok = s.magok := rfl
@[simp] theorem State.driveMap_dimlo (a : BitVec 10) (i : Byte) (s : State) : (s.driveMap a i).dimlo = s.dimlo := rfl
@[simp] theorem State.driveMap_mode (a : BitVec 10) (i : Byte) (s : State) : (s.driveMap a i).mode = s.mode := rfl
@[simp] theorem State.driveMap_vsize (a : BitVec 10) (i : Byte) (s : State) : (s.driveMap a i).vsize = s.vsize := rfl
@[simp] theorem State.driveMap_skip (a : BitVec 10) (i : Byte) (s : State) : (s.driveMap a i).skip = s.skip := rfl
@[simp] theorem State.driveMap_eof (a : BitVec 10) (i : Byte) (s : State) : (s.driveMap a i).eof = s.eof := rfl
@[simp] theorem State.driveMap_short (a : BitVec 10) (i : Byte) (s : State) : (s.driveMap a i).short = s.short := rfl
@[simp] theorem State.driveMap_errc (a : BitVec 10) (i : Byte) (s : State) : (s.driveMap a i).errc = s.errc := rfl
@[simp] theorem State.driveMap_b (a : BitVec 10) (i : Byte) (s : State) : (s.driveMap a i).b = s.b := rfl
@[simp] theorem State.driveMap_gcnt (a : BitVec 10) (i : Byte) (s : State) : (s.driveMap a i).gcnt = s.gcnt := rfl
@[simp] theorem State.driveMap_gidx (a : BitVec 10) (i : Byte) (s : State) : (s.driveMap a i).gidx = s.gidx := rfl
@[simp] theorem State.driveMap_idxbuf (a : BitVec 10) (i : Byte) (s : State) : (s.driveMap a i).idxbuf = s.idxbuf := rfl
@[simp] theorem State.driveMap_x (a : BitVec 10) (i : Byte) (s : State) : (s.driveMap a i).x = s.x := rfl
@[simp] theorem State.driveMap_y (a : BitVec 10) (i : Byte) (s : State) : (s.driveMap a i).y = s.y := rfl
@[simp] theorem State.driveMap_wires (a : BitVec 10) (i : Byte) (s : State) : (s.driveMap a i).wires = { s.wires with addr := a, idx := i } := rfl
@[simp] theorem State.driveMap_edges (a : BitVec 10) (i : Byte) (s : State) : (s.driveMap a i).edges = s.edges := rfl
@[simp] theorem State.driveMap_file (a : BitVec 10) (i : Byte) (s : State) : (s.driveMap a i).file = s.file := rfl
@[simp] theorem State.driveMap_pixels (a : BitVec 10) (i : Byte) (s : State) : (s.driveMap a i).pixels = s.pixels := rfl
@[simp] theorem State.driveMap_earlier (a : BitVec 10) (i : Byte) (s : State) : (s.driveMap a i).earlier = s.earlier := rfl
@[simp] theorem State.driveMap_cycle (a : BitVec 10) (i : Byte) (s : State) : (s.driveMap a i).cycle = s.cycle := rfl
@[simp] theorem State.driveMap_edge (a : BitVec 10) (i : Byte) (s : State) : (s.driveMap a i).edge = s.edge := rfl

/-! ### `State.driveRgb` -/

@[simp] theorem State.driveRgb_phase (c : Rgb) (s : State) : (s.driveRgb c).phase = s.phase := rfl
@[simp] theorem State.driveRgb_hpos (c : Rgb) (s : State) : (s.driveRgb c).hpos = s.hpos := rfl
@[simp] theorem State.driveRgb_magok (c : Rgb) (s : State) : (s.driveRgb c).magok = s.magok := rfl
@[simp] theorem State.driveRgb_dimlo (c : Rgb) (s : State) : (s.driveRgb c).dimlo = s.dimlo := rfl
@[simp] theorem State.driveRgb_mode (c : Rgb) (s : State) : (s.driveRgb c).mode = s.mode := rfl
@[simp] theorem State.driveRgb_vsize (c : Rgb) (s : State) : (s.driveRgb c).vsize = s.vsize := rfl
@[simp] theorem State.driveRgb_skip (c : Rgb) (s : State) : (s.driveRgb c).skip = s.skip := rfl
@[simp] theorem State.driveRgb_eof (c : Rgb) (s : State) : (s.driveRgb c).eof = s.eof := rfl
@[simp] theorem State.driveRgb_short (c : Rgb) (s : State) : (s.driveRgb c).short = s.short := rfl
@[simp] theorem State.driveRgb_errc (c : Rgb) (s : State) : (s.driveRgb c).errc = s.errc := rfl
@[simp] theorem State.driveRgb_b (c : Rgb) (s : State) : (s.driveRgb c).b = s.b := rfl
@[simp] theorem State.driveRgb_gcnt (c : Rgb) (s : State) : (s.driveRgb c).gcnt = s.gcnt := rfl
@[simp] theorem State.driveRgb_gidx (c : Rgb) (s : State) : (s.driveRgb c).gidx = s.gidx := rfl
@[simp] theorem State.driveRgb_idxbuf (c : Rgb) (s : State) : (s.driveRgb c).idxbuf = s.idxbuf := rfl
@[simp] theorem State.driveRgb_x (c : Rgb) (s : State) : (s.driveRgb c).x = s.x := rfl
@[simp] theorem State.driveRgb_y (c : Rgb) (s : State) : (s.driveRgb c).y = s.y := rfl
@[simp] theorem State.driveRgb_wires (c : Rgb) (s : State) : (s.driveRgb c).wires = { s.wires with rgb := c } := rfl
@[simp] theorem State.driveRgb_edges (c : Rgb) (s : State) : (s.driveRgb c).edges = s.edges := rfl
@[simp] theorem State.driveRgb_file (c : Rgb) (s : State) : (s.driveRgb c).file = s.file := rfl
@[simp] theorem State.driveRgb_pixels (c : Rgb) (s : State) : (s.driveRgb c).pixels = s.pixels := rfl
@[simp] theorem State.driveRgb_earlier (c : Rgb) (s : State) : (s.driveRgb c).earlier = s.earlier := rfl
@[simp] theorem State.driveRgb_cycle (c : Rgb) (s : State) : (s.driveRgb c).cycle = s.cycle := rfl
@[simp] theorem State.driveRgb_edge (c : Rgb) (s : State) : (s.driveRgb c).edge = s.edge := rfl

/-! ### `State.drivePix` -/

@[simp] theorem State.drivePix_phase (p : Pixel) (s : State) : (s.drivePix p).phase = s.phase := rfl
@[simp] theorem State.drivePix_hpos (p : Pixel) (s : State) : (s.drivePix p).hpos = s.hpos := rfl
@[simp] theorem State.drivePix_magok (p : Pixel) (s : State) : (s.drivePix p).magok = s.magok := rfl
@[simp] theorem State.drivePix_dimlo (p : Pixel) (s : State) : (s.drivePix p).dimlo = s.dimlo := rfl
@[simp] theorem State.drivePix_mode (p : Pixel) (s : State) : (s.drivePix p).mode = s.mode := rfl
@[simp] theorem State.drivePix_vsize (p : Pixel) (s : State) : (s.drivePix p).vsize = s.vsize := rfl
@[simp] theorem State.drivePix_skip (p : Pixel) (s : State) : (s.drivePix p).skip = s.skip := rfl
@[simp] theorem State.drivePix_eof (p : Pixel) (s : State) : (s.drivePix p).eof = s.eof := rfl
@[simp] theorem State.drivePix_short (p : Pixel) (s : State) : (s.drivePix p).short = s.short := rfl
@[simp] theorem State.drivePix_errc (p : Pixel) (s : State) : (s.drivePix p).errc = s.errc := rfl
@[simp] theorem State.drivePix_b (p : Pixel) (s : State) : (s.drivePix p).b = s.b := rfl
@[simp] theorem State.drivePix_gcnt (p : Pixel) (s : State) : (s.drivePix p).gcnt = s.gcnt := rfl
@[simp] theorem State.drivePix_gidx (p : Pixel) (s : State) : (s.drivePix p).gidx = s.gidx := rfl
@[simp] theorem State.drivePix_idxbuf (p : Pixel) (s : State) : (s.drivePix p).idxbuf = s.idxbuf := rfl
@[simp] theorem State.drivePix_x (p : Pixel) (s : State) : (s.drivePix p).x = s.x := rfl
@[simp] theorem State.drivePix_y (p : Pixel) (s : State) : (s.drivePix p).y = s.y := rfl
@[simp] theorem State.drivePix_wires (p : Pixel) (s : State) : (s.drivePix p).wires = { s.wires with pix := p } := rfl
@[simp] theorem State.drivePix_edges (p : Pixel) (s : State) : (s.drivePix p).edges = s.edges := rfl
@[simp] theorem State.drivePix_file (p : Pixel) (s : State) : (s.drivePix p).file = s.file := rfl
@[simp] theorem State.drivePix_pixels (p : Pixel) (s : State) : (s.drivePix p).pixels = s.pixels := rfl
@[simp] theorem State.drivePix_earlier (p : Pixel) (s : State) : (s.drivePix p).earlier = s.earlier := rfl
@[simp] theorem State.drivePix_cycle (p : Pixel) (s : State) : (s.drivePix p).cycle = s.cycle := rfl
@[simp] theorem State.drivePix_edge (p : Pixel) (s : State) : (s.drivePix p).edge = s.edge := rfl

/-! ### `State.transfer` -/

@[simp] theorem State.transfer_phase (l : Bool) (s : State) : (s.transfer l).phase = s.phase := rfl
@[simp] theorem State.transfer_hpos (l : Bool) (s : State) : (s.transfer l).hpos = s.hpos := rfl
@[simp] theorem State.transfer_magok (l : Bool) (s : State) : (s.transfer l).magok = s.magok := rfl
@[simp] theorem State.transfer_dimlo (l : Bool) (s : State) : (s.transfer l).dimlo = s.dimlo := rfl
@[simp] theorem State.transfer_mode (l : Bool) (s : State) : (s.transfer l).mode = s.mode := rfl
@[simp] theorem State.transfer_vsize (l : Bool) (s : State) : (s.transfer l).vsize = s.vsize := rfl
@[simp] theorem State.transfer_skip (l : Bool) (s : State) : (s.transfer l).skip = s.skip := rfl
@[simp] theorem State.transfer_eof (l : Bool) (s : State) : (s.transfer l).eof = s.eof := rfl
@[simp] theorem State.transfer_short (l : Bool) (s : State) : (s.transfer l).short = s.short := rfl
@[simp] theorem State.transfer_errc (l : Bool) (s : State) : (s.transfer l).errc = s.errc := rfl
@[simp] theorem State.transfer_b (l : Bool) (s : State) : (s.transfer l).b = s.b := rfl
@[simp] theorem State.transfer_gcnt (l : Bool) (s : State) : (s.transfer l).gcnt = s.gcnt := rfl
@[simp] theorem State.transfer_gidx (l : Bool) (s : State) : (s.transfer l).gidx = s.gidx := rfl
@[simp] theorem State.transfer_idxbuf (l : Bool) (s : State) : (s.transfer l).idxbuf = s.idxbuf := rfl
@[simp] theorem State.transfer_x (l : Bool) (s : State) : (s.transfer l).x = s.x := rfl
@[simp] theorem State.transfer_y (l : Bool) (s : State) : (s.transfer l).y = s.y := rfl
@[simp] theorem State.transfer_wires (l : Bool) (s : State) : (s.transfer l).wires = s.wires := rfl
@[simp] theorem State.transfer_edges (l : Bool) (s : State) : (s.transfer l).edges = s.edges := rfl
@[simp] theorem State.transfer_file (l : Bool) (s : State) : (s.transfer l).file = s.file := rfl
@[simp] theorem State.transfer_pixels (l : Bool) (s : State) : (s.transfer l).pixels = s.pixels ++ [{ data := s.wires.pix, last := l }] := rfl
@[simp] theorem State.transfer_earlier (l : Bool) (s : State) : (s.transfer l).earlier = s.earlier := rfl
@[simp] theorem State.transfer_cycle (l : Bool) (s : State) : (s.transfer l).cycle = s.cycle := rfl
@[simp] theorem State.transfer_edge (l : Bool) (s : State) : (s.transfer l).edge = s.edge := rfl

/-! ### `State.tick` -/

@[simp] theorem State.tick_phase (s : State) : (s.tick).phase = s.phase := rfl
@[simp] theorem State.tick_hpos (s : State) : (s.tick).hpos = s.hpos := rfl
@[simp] theorem State.tick_magok (s : State) : (s.tick).magok = s.magok := rfl
@[simp] theorem State.tick_dimlo (s : State) : (s.tick).dimlo = s.dimlo := rfl
@[simp] theorem State.tick_mode (s : State) : (s.tick).mode = s.mode := rfl
@[simp] theorem State.tick_vsize (s : State) : (s.tick).vsize = s.vsize := rfl
@[simp] theorem State.tick_skip (s : State) : (s.tick).skip = s.skip := rfl
@[simp] theorem State.tick_eof (s : State) : (s.tick).eof = s.eof := rfl
@[simp] theorem State.tick_short (s : State) : (s.tick).short = s.short := rfl
@[simp] theorem State.tick_errc (s : State) : (s.tick).errc = s.errc := rfl
@[simp] theorem State.tick_b (s : State) : (s.tick).b = s.b := rfl
@[simp] theorem State.tick_gcnt (s : State) : (s.tick).gcnt = s.gcnt := rfl
@[simp] theorem State.tick_gidx (s : State) : (s.tick).gidx = s.gidx := rfl
@[simp] theorem State.tick_idxbuf (s : State) : (s.tick).idxbuf = s.idxbuf := rfl
@[simp] theorem State.tick_x (s : State) : (s.tick).x = s.x := rfl
@[simp] theorem State.tick_y (s : State) : (s.tick).y = s.y := rfl
@[simp] theorem State.tick_wires (s : State) : (s.tick).wires = s.wires := rfl
@[simp] theorem State.tick_edges (s : State) : (s.tick).edges = s.edges.tail := rfl
@[simp] theorem State.tick_file (s : State) : (s.tick).file = s.file := rfl
@[simp] theorem State.tick_pixels (s : State) : (s.tick).pixels = s.pixels := rfl
@[simp] theorem State.tick_earlier (s : State) : (s.tick).earlier = s.earlier := rfl
@[simp] theorem State.tick_cycle (s : State) : (s.tick).cycle = s.cycle + 1 := rfl

end Sys2Proof.Machine
end

