-- ==== Sys2Proof/Laws/Parts.lean ====
section
/-! SUPPORT. Laws/Parts.lean: what each selected part of a step is, one lemma per format: the decoder is not unfolded
again in later proofs. -/

namespace Sys2Proof

/-- F-EVT of an edge selects by the edge's own bits. -/
theorem decodeEvt_evtWord (e : Machine.Edge) :
    decodeEvt (Machine.evtWord e) = decodeEvtBits e.rst e.inValid e.outReady := by
  have h : ∀ r v o : Bool,
      decodeEvt (BitVec.ofBool r ++ BitVec.ofBool v ++ BitVec.ofBool o) = decodeEvtBits r v o := by decide
  exact h e.rst e.inValid e.outReady

theorem decodeOff_magic {p : BitVec 6} (h : p.toNat < 4) : decodeOff p = .ok (.hvMagic (p.extractLsb' 0 2)) := by
  revert h; revert p; decide

theorem decodeOff_skip {p : BitVec 6} (h : p.toNat = 4 ∨ p.toNat = 5 ∨ (8 ≤ p.toNat ∧ p.toNat ≤ 31)) :
    decodeOff p = .ok (.hvSkip p) := by
  revert h; revert p; decide

theorem decodeOff_beyond {p : BitVec 6} (h : 32 ≤ p.toNat) : decodeOff p = .error .offUnreachable := by
  revert h; revert p; decide

/-- The middle part of three, by its place. -/
theorem extractLsb'_append_middle {n m q : Nat} (a : BitVec n) (b : BitVec m) (c : BitVec q) :
    (a ++ b ++ c).extractLsb' q m = b := by
  ext k hk
  simp [BitVec.getLsbD_append, hk]

/-- The first part of three. -/
theorem extractLsb'_append_first {n m q : Nat} (a : BitVec n) (b : BitVec m) (c : BitVec q) :
    (a ++ b ++ c).extractLsb' (m + q) n = a := by
  ext k hk
  simp only [BitVec.getElem_extractLsb', BitVec.getLsbD_append]
  rw [if_neg (by omega), if_neg (by omega), show m + q + k - q - m = k by omega]
  exact BitVec.getLsbD_eq_getElem hk

/-- F-HDR with the magic good, by its code. -/
theorem decodeHdr_append (c ign : BitVec 16) : decodeHdr (c ++ ign ++ Const.magicWord : BitVec 64) =
    if c.toInt = 0 then .ok (.hvDim0 ign) else if c.toInt = 1 then .ok (.hvDim1 ign)
    else if c.toInt = 2 then .ok (.hvDim2 ign) else .error .badDimension := by
  have h0 : (c ++ ign ++ Const.magicWord).extractLsb' 0 32 = Const.magicWord := BitVec.extractLsb'_append_eq_right
  have h1 : (c ++ ign ++ Const.magicWord).extractLsb' 32 16 = ign := extractLsb'_append_middle c ign _
  have h2 : (c ++ ign ++ Const.magicWord).extractLsb' 48 16 = c := extractLsb'_append_first c ign Const.magicWord
  simp only [decodeHdr, h0, h1, h2, ne_eq, not_true, if_false]

theorem decodeHdr_hdrWord (c : BitVec 16) : decodeHdr (Machine.hdrWord c) =
    if c.toInt = 0 then .ok (.hvDim0 0) else if c.toInt = 1 then .ok (.hvDim1 0)
    else if c.toInt = 2 then .ok (.hvDim2 0) else .error .badDimension :=
  decodeHdr_append c 0

/-- F-XY by its four fields. -/
theorem decodeXy_append (k : BitVec 4) (v : BitVec 6) (y x : BitVec 5) :
    decodeXy (k ++ v ++ y ++ x : BitVec 20) = [.adecMap k v y x, .adecNext k v y x] := by
  have h0 : (k ++ v ++ y ++ x).extractLsb' 0 5 = x := BitVec.extractLsb'_append_eq_right
  have h1 : (k ++ v ++ y ++ x).extractLsb' 5 5 = y := extractLsb'_append_middle (k ++ v) y x
  have h2 : (k ++ v ++ y ++ x).extractLsb' 10 6 = v := by
    rw [BitVec.extractLsb'_append_eq_of_le (by omega)]; exact extractLsb'_append_middle k v y
  have h3 : (k ++ v ++ y ++ x).extractLsb' 16 4 = k := by
    rw [BitVec.extractLsb'_append_eq_of_le (by omega)]; exact extractLsb'_append_first k v y
  simp only [decodeXy, h0, h1, h2, h3]

theorem decodeCmp_append (m : BitVec 1) (c : Rgb) : decodeCmp (m ++ c : BitVec 25) =
    if m = 0 then .compOpaque c
    else if c = Const.stBlackRgb then .compStBlack
    else if c = Const.stWhiteRgb then .compStWhite
    else .compStClear c := by
  have h : (m ++ c).extractLsb' 24 1 = m := BitVec.extractLsb'_append_eq_left
  have h' : (m ++ c).extractLsb' 0 24 = c := BitVec.extractLsb'_append_eq_right
  simp only [decodeCmp, h, h']

/-- The palette row of an index, by its range (R73). -/
theorem decodeIdx_eq (i : Byte) : decodeIdx i =
    if i.toNat < 64 then .palRomLo (i.extractLsb' 0 6)
    else if i.toNat < 96 then .palRomHi (i.extractLsb' 0 5)
    else if i.toNat < 128 then .palWhite7 (i.extractLsb' 0 5)
    else .palWhite8 (i.extractLsb' 0 7) := by
  revert i; decide

/-- The row's own bits put back before its operand give the index. -/
theorem romLo_index {i : Byte} (h : i.toNat < 64) : (0b00#2 ++ i.extractLsb' 0 6 : BitVec 8) = i := by
  revert h; revert i; decide

theorem romHi_index {i : Byte} (h : ¬ i.toNat < 64) (h' : i.toNat < 96) :
    (0b010#3 ++ i.extractLsb' 0 5 : BitVec 8) = i := by
  revert h h'; revert i; decide

end Sys2Proof

namespace Sys2Proof.Machine

/-- A sequence of parts answers a next state exactly if each part does. -/
theorem andThen_eq_next {o : Host.Outcome State Fault Refusal} {k : State → Host.Outcome State Fault Refusal} {t : State} :
    andThen o k = .next t ↔ ∃ s, o = .next s ∧ k s = .next t := by
  cases o <;> simp [andThen]

@[simp] theorem andThen_next (s : State) (k : State → Host.Outcome State Fault Refusal) :
    andThen (.next s) k = k s := rfl

/-- The palette's part of a pixel is PAL of the index, whatever row selects it. -/
theorem palPart_eq (idx : Byte) (s : State) : palPart idx s = .next (s.driveRgb (palColour idx)) := by
  unfold palPart palColour palWith Const.palLen
  rw [decodeIdx_eq]
  by_cases h1 : idx.toNat < 64
  · simp only [h1, if_true, show idx.toNat < 96 by omega, execPalRomLo, romLo_index h1]
  · by_cases h2 : idx.toNat < 96
    · simp only [h1, h2, if_true, if_false, execPalRomHi, romHi_index h1 h2]
    · by_cases h3 : idx.toNat < 128 <;> simp only [h1, h2, h3, if_true, if_false, execPalWhite7, execPalWhite8]

theorem compPixel_stencil (c : Rgb) : compPixel .stencilMode c =
    if c = Const.stBlackRgb then Const.pixBlack else if c = Const.stWhiteRgb then Const.pixWhite else Const.pixClear := rfl

/-- The composer's part of a pixel is COMP of mode and colour, whatever row selects it. -/
theorem compPart_eq (m : Mode) (c : Rgb) (s : State) : compPart (cmpWord m c) s = .next (s.drivePix (compPixel m c)) := by
  unfold compPart cmpWord
  rw [decodeCmp_append]
  cases m
  · rfl
  · rw [if_neg (by decide), compPixel_stencil]
    by_cases hb : c = Const.stBlackRgb
    · rw [if_pos hb, if_pos hb]; rfl
    · rw [if_neg hb, if_neg hb]
      by_cases hw : c = Const.stWhiteRgb
      · rw [if_pos hw, if_pos hw]; rfl
      · rw [if_neg hw, if_neg hw]; rfl

theorem headerPart_magic {p : BitVec 6} (h : p.toNat < 4) (s : State) :
    headerPart p s = execHvMagic (p.extractLsb' 0 2) s := by
  simp [headerPart, decodeOff_magic h]

theorem headerPart_dimlo (s : State) : headerPart 6 s = execHvDimlo s := rfl

theorem headerPart_dimhi (s : State) : headerPart 7 s = execHvDimhi s := rfl

theorem headerPart_skip {p : BitVec 6} (h : p.toNat = 4 ∨ p.toNat = 5 ∨ (8 ≤ p.toNat ∧ p.toNat ≤ 31)) (s : State) :
    headerPart p s = .next s := by
  simp [headerPart, decodeOff_skip h, execHvSkip]

theorem headerPart_beyond {p : BitVec 6} (h : 32 ≤ p.toNat) (s : State) :
    headerPart p s = .refused (.noRow .off) := by
  simp [headerPart, decodeOff_beyond h]

/-- What HV.DIMHI does, by DIMTAB: the profile of the code, or BadDimension. -/
theorem execHvDimhi_eq (s : State) : execHvDimhi s =
    match Const.profileOf (code16 s.wires.d s.dimlo).toInt with
    | some p => .next (s.setProfile p)
    | none => .next (s.trapEntry .badDimension) := by
  simp only [execHvDimhi, decodeHdr_hdrWord, Const.profileOf]
  split_ifs <;> rfl

theorem bodyPart_load {s : State} (h : s.gcnt.toNat ≤ 6) : bodyPart s = execUnpLoad s.gcnt s := by
  have h6 : ∀ g : BitVec 3, g.toNat ≤ 6 →
      decodeGc g = if g = 6 then .ok [.unpLoad g, .unpExpand] else .ok [.unpLoad g] := by decide
  unfold bodyPart
  rw [h6 _ h]
  by_cases hg : s.gcnt = 6
  · rw [if_pos hg]
  · rw [if_neg hg]

end Sys2Proof.Machine
end

