-- ==== Sys2Proof/Laws/PerInstr.lean ====
section
/-! SUPPORT. Laws/PerInstr.lean: per operation, that its word is one its own row of the operation map selects (R81). -/

namespace Sys2Proof.Laws.EncodingMatchesRow

/-- The row of a well-formed operation is in the table, has the operation's format, and its mask and match select the
operation's word. -/
def Statement (i : Instr) : Prop :=
  i.WellFormed = true → i.row ∈ opTable ∧ i.row.format = i.format ∧ i.row.selects (encode i).toNat = true

/-- A masked word by its bits. -/
theorem selects_of {n : Nat} {r : OpRow} {w m v : BitVec n} (h : w &&& m = v) (hm : r.mask = m.toNat)
    (hv : r.value = v.toNat) : r.selects w.toNat = true := by
  rw [OpRow.selects, hm, hv, ← BitVec.toNat_and, h, beq_self_eq_true]

/-- The ignored bits of F-HDR are masked out. -/
theorem hdr_masked (c ign : BitVec 16) :
    (c ++ ign ++ Const.magicWord : BitVec 64) &&& 0xFFFF0000FFFFFFFF#64 = c ++ 0#16 ++ Const.magicWord := by
  have e : 0xFFFF0000FFFFFFFF#64 = BitVec.allOnes 16 ++ 0#16 ++ BitVec.allOnes 32 := by decide
  rw [e, BitVec.and_append, BitVec.and_append, BitVec.and_allOnes, BitVec.and_allOnes, BitVec.and_zero]

/-- The colour of F-CMP is masked out. -/
theorem cmp_masked (m : BitVec 1) (c : Rgb) : (m ++ c : BitVec 25) &&& 0x1000000#25 = m ++ 0#24 := by
  have e : 0x1000000#25 = BitVec.allOnes 1 ++ 0#24 := by decide
  rw [e, BitVec.and_append, BitVec.and_allOnes, BitVec.and_zero]

theorem hvMagic (p : BitVec 2) : Statement (.hvMagic p) := fun _ => by revert p; decide

theorem hvDimlo : Statement .hvDimlo := by unfold Statement; decide

theorem hvDimhi : Statement .hvDimhi := by unfold Statement; decide

theorem hvSkip (p : BitVec 6) : Statement (.hvSkip p) := fun _ => by revert p; decide

theorem hvDim0 (ign : BitVec 16) : Statement (.hvDim0 ign) := fun _ =>
  ⟨(by decide : (Instr.hvDim0 0).row ∈ opTable), rfl, selects_of (hdr_masked 0#16 ign) rfl rfl⟩

theorem hvDim1 (ign : BitVec 16) : Statement (.hvDim1 ign) := fun _ =>
  ⟨(by decide : (Instr.hvDim1 0).row ∈ opTable), rfl, selects_of (hdr_masked 1#16 ign) rfl rfl⟩

theorem hvDim2 (ign : BitVec 16) : Statement (.hvDim2 ign) := fun _ =>
  ⟨(by decide : (Instr.hvDim2 0).row ∈ opTable), rfl, selects_of (hdr_masked 2#16 ign) rfl rfl⟩

theorem unpLoad (g : BitVec 3) : Statement (.unpLoad g) := fun _ => by revert g; decide

theorem unpExpand : Statement .unpExpand := by unfold Statement; decide

theorem adecMap (k : BitVec 4) (v : BitVec 6) (y x : BitVec 5) : Statement (.adecMap k v y x) := fun _ =>
  ⟨(by decide : (Instr.adecMap 0 0 0 0).row ∈ opTable), rfl, by simp [OpRow.selects, Instr.row]⟩

theorem adecNext (k : BitVec 4) (v : BitVec 6) (y x : BitVec 5) : Statement (.adecNext k v y x) := fun _ =>
  ⟨(by decide : (Instr.adecNext 0 0 0 0).row ∈ opTable), rfl, by simp [OpRow.selects, Instr.row]⟩

theorem palRomLo (i : BitVec 6) : Statement (.palRomLo i) := fun _ => by revert i; decide

theorem palRomHi (i : BitVec 5) : Statement (.palRomHi i) := fun _ => by revert i; decide

theorem palWhite7 (i : BitVec 5) : Statement (.palWhite7 i) := fun _ => by revert i; decide

theorem palWhite8 (i : BitVec 7) : Statement (.palWhite8 i) := fun _ => by revert i; decide

theorem compOpaque (c : Rgb) : Statement (.compOpaque c) := fun _ =>
  ⟨(by decide : (Instr.compOpaque 0).row ∈ opTable), rfl, selects_of (cmp_masked 0#1 c) rfl rfl⟩

theorem compStBlack : Statement .compStBlack := by unfold Statement; decide

theorem compStWhite : Statement .compStWhite := by unfold Statement; decide

theorem compStClear (c : Rgb) : Statement (.compStClear c) := fun _ =>
  ⟨(by decide : (Instr.compStClear 0).row ∈ opTable), rfl, selects_of (cmp_masked 1#1 c) rfl rfl⟩

theorem seqReset (v r : Bool) : Statement (.seqReset v r) := fun _ => by revert v r; decide

theorem seqInbyte (r : Bool) : Statement (.seqInbyte r) := fun _ => by revert r; decide

theorem seqPadbyte (v r : Bool) : Statement (.seqPadbyte v r) := fun _ => by revert v r; decide

theorem seqOutpix (v : Bool) : Statement (.seqOutpix v) := fun _ => by revert v; decide

end Sys2Proof.Laws.EncodingMatchesRow
end

