-- ==== Sys2Proof/Laws/Run.lean ====
section
/-! SUPPORT. Laws/Run.lean: a run of one more clock edge, taken apart; and what holds of a state and is kept by every clock
edge holds at the end of a run. -/

namespace Sys2Proof.Machine

/-- A longer run begins with one step. -/
theorem run_succ_next {m : Host.Core} {k : Nat} {s t : m.State} (h : m.run (k + 1) s = .next t) :
    ∃ u, m.step s = .next u ∧ m.run k u = .next t := by
  unfold Host.Core.run at h
  cases e : m.step s with
  | next u => rw [e] at h; exact ⟨u, rfl, h⟩
  | fault r => rw [e] at h; cases h
  | refused r => rw [e] at h; cases h

/-- Induction over a run of this machine. -/
theorem run_keeps {p : State → Prop} (keep : ∀ s t, p s → step s = .next t → p t) :
    ∀ (k : Nat) (s t : State), p s → Sys2Proof.core.run k s = Host.Outcome.next t → p t
  | 0, s, t, hs, h => by cases h; exact hs
  | k + 1, s, t, hs, h => by
    obtain ⟨u, e, h'⟩ := run_succ_next h
    exact run_keeps keep k u t (keep s u hs e) h'

end Sys2Proof.Machine
end

