-- ==== Sys2Proof/Laws/Unp.lean ====
section
/-! SUPPORT. Laws/Unp.lean: everything UNP.LOAD and UNP.EXPAND can do, as one next state each. -/

namespace Sys2Proof.Machine

theorem execUnpExpand_eq {s : State} (h : s.gidx.toNat ≤ 127) : execUnpExpand s = .next { s with
    idxbuf := bufStore s.idxbuf (8 * s.gidx.toNat)
      (expandLanes s.b[0] s.b[1] s.b[2] s.b[3] s.b[4] s.b[5] s.wires.d).toList } :=
  if_pos (show s.gidx.toNat < 128 by omega)

/-- A byte that is not the seventh of its group. -/
theorem execUnpLoad_early {s : State} {g : BitVec 3} (h : s.gidx.toNat ≤ 127) (hg : g.toNat ≤ 5) :
    execUnpLoad g s = .next { s with b := s.b.setIfInBounds g.toNat s.wires.d, gcnt := g + 1 } :=
  (if_pos (show s.gidx.toNat < 128 by omega)).trans (if_pos (show g.toNat + 1 < 7 by omega))

/-- The seventh byte of a group. -/
theorem execUnpLoad_last {s : State} (h : s.gidx.toNat ≤ 127) : execUnpLoad 6 s = .next { s with
    b := s.b.set 6 s.wires.d
    gcnt := 0
    gidx := s.gidx + 1
    phase := if s.gidx.toNat = 127 then .emit else s.phase
    idxbuf := bufStore s.idxbuf (8 * s.gidx.toNat)
      (expandLanes s.b[0] s.b[1] s.b[2] s.b[3] s.b[4] s.b[5] s.wires.d).toList } := by
  refine (if_pos (show s.gidx.toNat < 128 by omega)).trans ?_
  have hx := execUnpExpand_eq (s := { s with b := s.b.setIfInBounds 6 s.wires.d }) h
  refine (congrArg (fun o => andThen o fun t => .next t.endGroup) hx).trans ?_
  have hb : s.b.setIfInBounds 6 s.wires.d = s.b.set 6 s.wires.d := by
    ext k hk
    simp only [Vector.getElem_set, Vector.getElem_setIfInBounds]
  simp only [andThen, State.endGroup, nGroups_eq, hb]
  simp

/-- Eight lanes stored inside IDXBUF: the canonical form, the eight entries, and every other entry. -/
theorem bufStore_lanes {m : Idxbuf} {g : Nat} (hw : Memory.wf m = true) (h : g ≤ 127) (l : Vector Byte 8) :
    Memory.wf (bufStore m (8 * g) l.toList) = true ∧
    (∀ k : Fin 8, bufGet (bufStore m (8 * g) l.toList) (8 * g + k.val) = l[k]) ∧
    (∀ a, a < 8 * g ∨ 8 * g + 8 ≤ a → bufGet (bufStore m (8 * g) l.toList) a = bufGet m a) := by
  have hl : l.toList.length = 8 := by simp
  refine ⟨bufWf_bufStore _ _ _ hw (by simp; omega), fun k => ?_, fun a ha => bufGet_bufStore_outside _ _ _ _ (by omega)⟩
  rw [bufGet_bufStore_inside _ _ _ _ hw (by simp; omega) (by omega)]
  simp

end Sys2Proof.Machine
end

