-- ==== Sys2Proof/Laws/Seq.lean ====
section
/-! SUPPORT. Laws/Seq.lean: the four steps with their enabling condition met, each as its parts in order; the counters' next
values; and a header offset below four as a magic offset. -/

namespace Sys2Proof.Machine

theorem acceptByte_latchMode (s : State) : s.acceptByte.latchMode = { s with
    wires := { s.wires with d := s.edge.inData }
    file := s.file ++ [s.edge.inData]
    mode := if s.hpos = 0 then modeOf s.edge.cfgStencil else s.mode } := rfl

theorem execSeqInbyte_hdr {r : Bool} {s : State} (hp : s.phase = .hdr) (he : s.eof = false) (hg : s.edge.go = true) :
    execSeqInbyte r s =
      andThen (headerPart s.hpos s.acceptByte.latchMode) fun t => .next (afterHeaderByte s.edge.inLast t) := by
  simp only [execSeqInbyte, inReady, inPermitted, hp, he, hg]
  rfl

theorem execSeqInbyte_body {r : Bool} {s : State} (hp : s.phase = .body) (he : s.eof = false) (hg : s.edge.go = true) :
    execSeqInbyte r s = andThen (bodyPart s.acceptByte) fun t => .next { t with eof := t.eof || s.edge.inLast } := by
  simp only [execSeqInbyte, inReady, inPermitted, hp, he, hg]
  rfl

theorem execSeqPadbyte_enabled {v r : Bool} {s : State} (hp : s.phase = .body) (he : s.eof = true)
    (hg : s.edge.go = true) :
    execSeqPadbyte v r s = andThen (bodyPart (s.withByte 0)) fun t => .next { t with short := true } := by
  simp only [execSeqPadbyte, padReady, padPermitted, hp, he, hg]
  rfl

/-- The pixel step up to ADEC.NEXT. -/
theorem execSeqOutpix_enabled {v : Bool} {s : State} (hp : s.phase = .emit) (hg : s.edge.go = true)
    (hl : Const.legalProfile s.vsize s.skip = true) (ha : mapAddr s.skip s.y s.x < 1024) :
    execSeqOutpix v s = execAdecNext s.skip s.vsize s.y s.x { s with
      wires := { s.wires with
        addr := BitVec.ofNat 10 (mapAddr s.skip s.y s.x)
        idx := bufGet s.idxbuf (mapAddr s.skip s.y s.x)
        rgb := palColour (bufGet s.idxbuf (mapAddr s.skip s.y s.x))
        pix := pixelNow s }
      pixels := s.pixels ++ [{ data := pixelNow s, last := lastPosition s.vsize s.y s.x }] } := by
  have hv : outValid s = true := by simp [outValid, outPermitted, hp, hg]
  have hm : execAdecMap s.skip s.vsize s.y s.x s =
      .next (s.driveMap (BitVec.ofNat 10 (mapAddr s.skip s.y s.x)) (bufGet s.idxbuf (mapAddr s.skip s.y s.x))) := by
    simp only [execAdecMap, hl, if_true, idxbufRead, bufLen_eq, ha]
  simp only [execSeqOutpix, hv, if_true, hm, andThen_next, palPart_eq, compPart_eq]
  rfl

theorem magicOffset_toNat {p : BitVec 6} (h : p.toNat ≤ 3) : (p.extractLsb' 0 2).toNat = p.toNat := by
  revert h; revert p; decide

theorem magicOffset_three {p : BitVec 6} (h : p.toNat ≤ 3) : p.extractLsb' 0 2 = 3 ↔ p = 3 := by
  revert h; revert p; decide

theorem hpos_succ {p : BitVec 6} (h : p.toNat ≤ 31) : (p + 1).toNat = p.toNat + 1 := by
  rw [BitVec.toNat_add]; simp; omega

theorem gcnt_succ {g : BitVec 3} (h : g.toNat ≤ 5) : (g + 1).toNat = g.toNat + 1 := by
  rw [BitVec.toNat_add]; simp; omega

theorem gidx_succ {i : BitVec 8} (h : i.toNat ≤ 127) : (i + 1).toNat = i.toNat + 1 := by
  rw [BitVec.toNat_add]; simp; omega

/-- A raster coordinate that is not the last one of its row or column. -/
theorem coord_succ {x : BitVec 5} {v : Nat} (h : x.toNat + 1 < v) (hv : v ≤ 32) : (x + 1).toNat = x.toNat + 1 := by
  rw [BitVec.toNat_add]; simp; omega

/-- A clock edge that performs `i`. -/
theorem step_of_exec {s t : State} {i : Instr} (h : stepOp s = some i) (e : exec i s = .next t) : step s = .next t.tick := by
  simp only [step, h, e]
  rfl

/-- A clock edge that performs nothing. -/
theorem step_of_none {s : State} (h : stepOp s = none) : step s = .next s.tick := by
  simp only [step, h]

end Sys2Proof.Machine
end

