-- ==== Sys2Proof/Tests/Slice0.lean ====
section
/-! SUPPORT. Tests/Slice0.lean: the well-formedness smoke test; one word per constructor written out from the spec's encoding;
small one-step tests whose expected values are the vectors of spec/95_test_vectors.md; and a witness for every obligation that
has hypotheses. -/

namespace Sys2Proof.Tests

open Sys2Proof.Machine

/-! ### Helpers -/

/-- The next state, if the outcome is one. -/
def nextOf : Host.Outcome State Fault Refusal → Option State
  | .next s => some s
  | _ => none

/-- The byte `d` on offer, not the last of the file. -/
def offer (d : Byte) : Edge := { Edge.idle with inValid := true, inData := d }

/-- The byte `d` on offer, the last of the file. -/
def offerLast (d : Byte) : Edge := { offer d with inLast := true }

/-- The host takes a pixel. -/
def take : Edge := { Edge.idle with outReady := true }

/-- In HDR at offset `p`. -/
def hdrAt (p : BitVec 6) (e : Edge) : State := { State.reset with hpos := p, edges := [e] }

/-- In BODY of a 32-pixel frame, at byte `g` of group `i`. -/
def bodyAt (i : BitVec 8) (g : BitVec 3) (e : Edge) : State :=
  { State.reset with phase := .body, hpos := 32, vsize := 32, skip := 0, gidx := i, gcnt := g, edges := [e] }

/-- The same with the file ended. -/
def endedAt (i : BitVec 8) (g : BitVec 3) : State := { bodyAt i g Edge.idle with eof := true }

/-- In EMIT at (x, y) of a profile. -/
def emitAt (v : BitVec 6) (k : BitVec 4) (x y : BitVec 5) (e : Edge) : State :=
  { State.reset with
    phase := .emit, hpos := 32, vsize := v, skip := k, gidx := 128, x := x, y := y, edges := [e] }

/-- The byte of the step on the sub-blocks' net, for a sub-block operation performed alone. -/
def withD (d : Byte) (s : State) : State := s.withByte d

/-! ### Well-formedness: one ill-formed term for each check -/

theorem test_wf_skip_refuses_dimhi_offset : (Instr.hvSkip 7).WellFormed = false := by decide
theorem test_wf_skip_refuses_body_offset : (Instr.hvSkip 32).WellFormed = false := by decide
theorem test_wf_load_refuses_seven : (Instr.unpLoad 7).WellFormed = false := by decide
theorem test_wf_clear_refuses_black : (Instr.compStClear 0x211E1F).WellFormed = false := by decide
theorem test_wf_clear_refuses_white : (Instr.compStClear 0xFFFFFF).WellFormed = false := by decide

/-! ### Decoding: words written out from R70 to R81 -/

theorem test_decode_magic : decodeOff 0b000010#6 = .ok (.hvMagic 2) := rfl
theorem test_decode_dimlo : decodeOff 0b000110#6 = .ok .hvDimlo := rfl
theorem test_decode_dimhi : decodeOff 0b000111#6 = .ok .hvDimhi := rfl
theorem test_decode_skip : decodeOff 0b011111#6 = .ok (.hvSkip 31) := rfl
theorem test_decode_off_32 : decodeOff 0b100000#6 = .error .offUnreachable := rfl
theorem test_decode_dim0 : decodeHdr 0x0000_0000_4258_4950#64 = .ok (.hvDim0 0) := rfl
theorem test_decode_dim1 : decodeHdr 0x0001_0000_4258_4950#64 = .ok (.hvDim1 0) := rfl
/-- V-HV-4: bytes AB CD at offsets 4 and 5. -/
theorem test_decode_dim2 : decodeHdr 0x0002_CDAB_4258_4950#64 = .ok (.hvDim2 0xCDAB) := rfl
/-- V-HV-7. -/
theorem test_decode_code_256 : decodeHdr 0x0100_0000_4258_4950#64 = .error .badDimension := rfl
/-- V-HV-13: the magic reversed. -/
theorem test_decode_magic_reversed : decodeHdr 0x0000_0000_5049_5842#64 = .error .badMagic := rfl
theorem test_decode_load : decodeGc 0b101#3 = .ok [.unpLoad 5] := rfl
theorem test_decode_expand : decodeGc 0b110#3 = .ok [.unpLoad 6, .unpExpand] := rfl
theorem test_decode_gc_7 : decodeGc 0b111#3 = .error .gcUnreachable := rfl
/-- SKIP 4, VSIZE 24, Y 23, X 1. -/
theorem test_decode_map_next :
    decodeXy 0b0100_011000_10111_00001#20 = [.adecMap 4 24 23 1, .adecNext 4 24 23 1] := rfl
theorem test_decode_rom_lo : decodeIdx 0b00_111111#8 = .palRomLo 63 := rfl
theorem test_decode_rom_hi : decodeIdx 0b010_11111#8 = .palRomHi 31 := rfl
theorem test_decode_white_7 : decodeIdx 0b011_00000#8 = .palWhite7 0 := rfl
theorem test_decode_white_8 : decodeIdx 0b1_0000000#8 = .palWhite8 0 := rfl
theorem test_decode_opaque : decodeCmp 0b0_00100001_00011110_00011111#25 = .compOpaque 0x211E1F := by decide
theorem test_decode_black : decodeCmp 0b1_00100001_00011110_00011111#25 = .compStBlack := by decide
theorem test_decode_white : decodeCmp 0b1_11111111_11111111_11111111#25 = .compStWhite := by decide
/-- V-COMP-12: the black constant with red and blue exchanged. -/
theorem test_decode_clear : decodeCmp 0b1_00011111_00011110_00100001#25 = .compStClear 0x1F1E21 := by decide
theorem test_decode_reset : decodeEvt 0b111#3 = [.seqReset true true] := rfl
theorem test_decode_inbyte : decodeEvt 0b010#3 = [.seqInbyte false, .seqPadbyte true false] := rfl
theorem test_decode_outpix : decodeEvt 0b001#3 = [.seqOutpix false, .seqPadbyte false true] := rfl
theorem test_decode_padbyte : decodeEvt 0b000#3 = [.seqPadbyte false false] := rfl

/-! ### Table words -/

theorem test_table_word_dim2 : decodeTableWord 64 0x0002000042584950 = some (.hvDim2 0) := by decide
theorem test_table_word_black : decodeTableWord 32 0x1211E1F = some .compStBlack := by decide
theorem test_table_word_reset : decodeTableWord 8 0x04 = some (.seqReset false false) := by decide
/-- The placed operation is the one the very next step performs. -/
theorem test_fetch_dimhi :
    (nextOf (step (State.reset.withFetchWord 8 0x07))).map (fun t => (t.vsize, t.skip, t.hpos)) = some (16, 8, 8) := by decide
theorem test_fetch_outpix :
    (nextOf (step (State.reset.withFetchWord 8 0x01))).map (fun t => (t.pixels.length, t.x)) = some (1, 1) := by decide

/-! ### HV -/

/-- V-HV-15, last step. -/
theorem test_magic_traps :
    (nextOf (step (hdrAt 3 (offer 0x43)))).map (fun t => (t.phase, t.errc, t.magok, t.hpos)) =
      some (.err, .badMagic, false, 3) := by decide
/-- V-HV-16, first step: a mismatch is remembered, not raised. -/
theorem test_magic_remembers :
    (nextOf (step (hdrAt 0 (offer 0x51)))).map (fun t => (t.phase, t.magok, t.hpos)) = some (.hdr, false, 1) := by decide
/-- V-HV-17. -/
theorem test_dimlo_latches :
    (nextOf (step (hdrAt 6 (offer 0x02)))).map (fun t => (t.dimlo, t.hpos)) = some (0x02, 7) := by decide
theorem test_dimhi_selects :
    (nextOf (step { hdrAt 7 (offer 0x00) with dimlo := 0x02 })).map (fun t => (t.vsize, t.skip, t.hpos, t.phase)) =
      some (32, 0, 8, .hdr) := by decide
/-- V-HV-18. -/
theorem test_dimhi_traps :
    (nextOf (step { hdrAt 7 (offer 0x00) with dimlo := 0x03 })).map (fun t => (t.phase, t.errc, t.hpos, t.vsize)) =
      some (.err, .badDimension, 7, 0) := by decide
/-- V-HV-2. -/
theorem test_dim1_profile :
    (nextOf (exec (.hvDim1 0xFFFF) State.reset)).map (fun t => (t.vsize, t.skip)) = some (24, 4) := by decide
theorem test_dim0_profile :
    (nextOf (exec (.hvDim0 0) State.reset)).map (fun t => (t.vsize, t.skip)) = some (16, 8) := by decide
theorem test_dim2_profile :
    (nextOf (exec (.hvDim2 0) State.reset)).map (fun t => (t.vsize, t.skip)) = some (32, 0) := by decide
/-- V-HV-19. -/
theorem test_skip_changes_nothing :
    (nextOf (step { hdrAt 16 (offer 0xAB) with vsize := 24, skip := 4 })).map
      (fun t => (t.hpos, t.dimlo, t.vsize, t.skip, t.phase)) = some (17, 0, 24, 4, .hdr) := by decide

/-! ### UNP -/

/-- V-UNP-1, the source's Scenario E. -/
theorem test_expand_scenario_e :
    (expandLanes 0x81 0x00 0x00 0x00 0x00 0x00 0x00).toList = [0x01, 0x01, 0, 0, 0, 0, 0, 0] := by decide
/-- V-UNP-3 (C1). -/
theorem test_expand_top_bit :
    (expandLanes 0x00 0x00 0x00 0x00 0x00 0x00 0x80).toList = [0, 0, 0, 0, 0, 0, 0, 0x40] := by decide
/-- V-UNP-11. -/
theorem test_expand_mixed : (expandLanes 0xDE 0xAD 0xBE 0xEF 0x12 0x34 0x56).toList =
    [0x5E, 0x5B, 0x7A, 0x7D, 0x2E, 0x02, 0x0D, 0x2B] := by decide
/-- V-UNP-19. -/
theorem test_expand_indices : (expandLanes 0x5F 0x30 0xE0 0x0F 0xFC 0x81 0x3E).toList =
    [0x5F, 0x60, 0x00, 0x7F, 0x40, 0x3F, 0x20, 0x1F] := by decide
/-- V-UNP-28. -/
theorem test_load_first :
    (nextOf (step (bodyAt 0 0 (offer 0x81)))).map (fun t => (t.b[0], t.gcnt, t.gidx, t.idxbuf)) =
      some (0x81, 1, 0, []) := by decide
/-- V-UNP-29. -/
theorem test_load_seventh :
    (nextOf (step { bodyAt 5 6 (offer 0x02) with b := #v[0x81, 0x40, 0x20, 0x10, 0x08, 0x04, 0x00] })).map
      (fun t => (t.idxbuf, t.gidx, t.gcnt, t.b[6])) =
      some ([(40, 1), (41, 1), (42, 1), (43, 1), (44, 1), (45, 1), (46, 1), (47, 1)], 6, 0, 0x02) := by decide
/-- V-UNP-30: entries 1016 to 1022 are 00, which the list does not hold. -/
theorem test_expand_last_group :
    (nextOf (exec .unpExpand (withD 0x80 (bodyAt 127 6 Edge.idle)))).map (fun t => (t.idxbuf, t.gidx)) =
      some ([(1023, 0x40)], 127) := by decide

/-! ### ADEC -/

/-- V-ADEC-4: address 759, row and column 23. -/
theorem test_map_corner :
    (nextOf (exec (.adecMap 8 16 15 15) { State.reset with idxbuf := [(759, 0x5F)] })).map
      (fun t => (t.wires.addr, t.wires.idx)) = some (759, 0x5F) := by decide
/-- V-ADEC-8: (X, Y) = (0, 1) of profile 1. -/
theorem test_map_row : (nextOf (exec (.adecMap 4 24 1 0) State.reset)).map (fun t => t.wires.addr) = some 164 := by decide
/-- V-ADEC-17. -/
theorem test_next_row :
    (nextOf (exec (.adecNext 4 24 7 23) (emitAt 24 4 23 7 take))).map (fun t => (t.x, t.y, t.phase)) =
      some (0, 8, .emit) := by decide
/-- V-ADEC-16. -/
theorem test_next_last :
    (nextOf (exec (.adecNext 8 16 15 15) (emitAt 16 8 15 15 take))).map (fun t => (t.x, t.y, t.phase)) =
      some (0, 0, .done) := by decide

/-! ### PAL and COMP -/

/-- V-PAL-1. -/
theorem test_rom_lo_zero : (nextOf (exec (.palRomLo 0) State.reset)).map (fun t => t.wires.rgb) = some 0xFFFFFF := by decide
/-- V-PAL-4: index 0x5F is entry 95, whose value is open. -/
theorem test_rom_hi_last : exec (.palRomHi 31) State.reset = .next (State.reset.driveRgb (Const.palette 95)) := rfl
/-- V-PAL-5. -/
theorem test_white_7 : (nextOf (exec (.palWhite7 0) State.reset)).map (fun t => t.wires.rgb) = some 0xFFFFFF := by decide
/-- V-PAL-8. -/
theorem test_white_8 : (nextOf (exec (.palWhite8 127) State.reset)).map (fun t => t.wires.rgb) = some 0xFFFFFF := by decide
/-- V-COMP-2. -/
theorem test_opaque :
    (nextOf (exec (.compOpaque 0x211E1F) State.reset)).map (fun t => t.wires.pix) = some 0xFF211E1F := by decide
/-- V-COMP-3. -/
theorem test_black : (nextOf (exec .compStBlack State.reset)).map (fun t => t.wires.pix) = some 0xFF000000 := by decide
/-- V-COMP-4. -/
theorem test_white : (nextOf (exec .compStWhite State.reset)).map (fun t => t.wires.pix) = some 0xFFFFFFFF := by decide
/-- V-COMP-7. -/
theorem test_clear :
    (nextOf (exec (.compStClear 0x123456) State.reset)).map (fun t => t.wires.pix) = some 0x00000000 := by decide
/-- V-COMP-11: one bit off the white constant. -/
theorem test_near_white_is_clear : compPixel .stencilMode 0xFFFFFE = 0x00000000 := by decide

/-! ### SEQ -/

/-- V-SEQ-1, V-SEQ-15: reset wins over a byte at the same edge. -/
theorem test_reset_wins :
    (nextOf (step { hdrAt 3 { offer 0x43 with rst := true } with mode := .stencilMode, dimlo := 3 })).map
      (fun t => (t.phase, t.hpos, t.mode, t.dimlo, t.errc, t.magok)) = some (.hdr, 0, .opaqueMode, 0, .noCause, true) := by
  decide
/-- V-SEQ-2. -/
theorem test_first_byte_latches_mode :
    (nextOf (step (hdrAt 0 { offer 0x50 with cfgStencil := true }))).map (fun t => (t.mode, t.magok, t.hpos)) =
      some (.stencilMode, true, 1) := by decide
/-- V-SEQ-5. -/
theorem test_file_ends_at_seven :
    (nextOf (step { hdrAt 7 (offerLast 0x00) with dimlo := 0x01 })).map (fun t => (t.vsize, t.skip, t.eof, t.hpos, t.phase)) =
      some (24, 4, true, 32, .body) := by decide
/-- V-SEQ-7. -/
theorem test_file_ends_at_five :
    (nextOf (step (hdrAt 5 (offerLast 0x00)))).map (fun t => (t.phase, t.errc, t.hpos, t.eof)) =
      some (.err, .truncatedHeader, 5, false) := by decide
/-- V-SEQ-8. -/
theorem test_last_body_byte :
    (nextOf (step (bodyAt 127 6 (offerLast 0x00)))).map (fun t => (t.gidx, t.gcnt, t.phase, t.eof, t.short)) =
      some (128, 0, .emit, true, false) := by decide
/-- V-SEQ-9. -/
theorem test_pad :
    (nextOf (step (endedAt 1 3))).map (fun t => (t.b[3], t.gcnt, t.short)) = some (0x00, 4, true) := by decide
/-- V-SEQ-10. -/
theorem test_last_pad :
    (nextOf (step (endedAt 127 6))).map (fun t => (t.gidx, t.phase, t.short)) = some (128, .emit, true) := by decide
/-- V-SEQ-11. -/
theorem test_last_pixel :
    (nextOf (step (emitAt 32 0 31 31 take))).map (fun t => (t.pixels, t.x, t.y, t.phase)) =
      some ([{ data := 0xFFFFFFFF, last := true }], 0, 0, .done) := by decide
/-- V-SEQ-12: the byte is not consumed. -/
theorem test_no_input_in_emit :
    (nextOf (step (emitAt 32 0 0 0 (offer 0x50)))).map (fun t => (t.file, t.phase, t.pixels)) = some ([], .emit, []) := by
  decide

/-! ### Witnesses: concrete states and operands that meet the hypotheses of each obligation that has some -/

theorem witness_EncodeThenDecodeEveryOperation :
    (Instr.hvSkip 31).WellFormed = true ∧ (Instr.unpLoad 6).WellFormed = true ∧
      (Instr.compStClear 0x211E1E).WellFormed = true ∧ (Instr.adecMap 15 63 31 31).WellFormed = true := by decide

theorem witness_DecodedOperationsEncodeBack :
    (decode .gc 0b110#3 = .ok [.unpLoad 6, .unpExpand] ∧ Instr.unpExpand ∈ [Instr.unpLoad 6, .unpExpand]) ∧
    (decode .hdr 0x0002FFFF42584950#64 = .ok [.hvDim2 0xFFFF] ∧ Instr.hvDim2 0xFFFF ∈ [Instr.hvDim2 0xFFFF]) := by
  refine ⟨⟨rfl, ?_⟩, rfl, ?_⟩ <;> decide

/-- Two rows match the word, so that the priority decides. -/
theorem witness_SelectedRowHasGreatestMask :
    decode .cmp 0x1211E1F#25 = .ok [.compStBlack] ∧ (Instr.compStClear 0).row ∈ opTable ∧
      (Instr.compStClear 0).row.selects 0x1211E1F = true ∧ (Instr.compStClear 0).row ≠ Instr.compStBlack.row := by
  refine ⟨?_, ?_, ?_, ?_⟩ <;> decide

theorem witness_EveryMatchingRowIsSelected :
    decode .evt 0b011#3 = .ok [.seqInbyte true, .seqOutpix true, .seqPadbyte true true] ∧
    decode .gc 0b000#3 = .ok [.unpLoad 0] ∧ decode .xy 0#20 = .ok [.adecMap 0 0 0 0, .adecNext 0 0 0 0] := ⟨rfl, rfl, rfl⟩

theorem witness_StepPerformsTheSelectedOperation :
    stepOp (hdrAt 0 (offer 0x50)) = some (.seqInbyte false) ∧ stepOp State.reset = none := by decide

theorem witness_AtMostOneStepIsEnabled :
    Instr.seqPadbyte false false ∈ decodeEvt (evtWord (endedAt 0 0).edge) ∧
      stepEnabled (endedAt 0 0) (.seqPadbyte false false) = true := by decide

theorem witness_HvMagicUpdatesMagok :
    (¬ ((0 : BitVec 2) = 3 ∧ ((withD 0x51 State.reset).magok = false ∨ (withD 0x51 State.reset).wires.d ≠ 0x42))) ∧
    (¬ ((3 : BitVec 2) = 3 ∧ ((withD 0x42 State.reset).magok = false ∨ (withD 0x42 State.reset).wires.d ≠ 0x42))) := by
  decide

theorem witness_HvMagicRaisesBadMagic :
    ({ withD 0x42 State.reset with magok := false }.magok = false) ∧ (withD 0x43 State.reset).wires.d ≠ 0x42 := by decide

theorem witness_HvSkipDiscardsTheByte : ∀ p : BitVec 6, p = 4 ∨ p = 5 ∨ p = 8 ∨ p = 31 →
    (p = 4 ∨ p = 5 ∨ (8 ≤ p.toNat ∧ p.toNat ≤ 31)) := by decide

theorem witness_UnpLoadTakesTheByte :
    ((bodyAt 0 0 Edge.idle).gcnt.toNat ≤ 6 ∧ (bodyAt 0 0 Edge.idle).gidx.toNat ≤ 127 ∧
      Memory.wf (bodyAt 0 0 Edge.idle).idxbuf = true) ∧
    ((bodyAt 127 6 Edge.idle).gcnt.toNat ≤ 6 ∧ (bodyAt 127 6 Edge.idle).gidx.toNat ≤ 127 ∧
      Memory.wf (bodyAt 127 6 Edge.idle).idxbuf = true) := by decide

theorem witness_UnpExpandStoresTheLanes :
    (bodyAt 127 6 Edge.idle).gidx.toNat ≤ 127 ∧ Memory.wf (bodyAt 127 6 Edge.idle).idxbuf = true := by decide

theorem witness_LanesLoseNoBit :
    expandLanes 0xDE 0xAD 0xBE 0xEF 0x12 0x34 0x56 = expandLanes 0xDE 0xAD 0xBE 0xEF 0x12 0x34 0x56 := rfl

theorem witness_UnreachableRegistersAreRefused :
    128 ≤ (bodyAt 128 0 Edge.idle).gidx.toNat ∧ (bodyAt 127 7 Edge.idle).gidx.toNat < 128 ∧
      Const.legalProfile 16 4 = false := by decide

theorem witness_AdecMapReadsTheEntry :
    (Const.legalProfile 16 8 = true ∧ (15 : BitVec 5).toNat < (16 : BitVec 6).toNat) ∧
    (Const.legalProfile 32 0 = true ∧ (31 : BitVec 5).toNat < (32 : BitVec 6).toNat) := by decide

theorem witness_AdecMapIsInRangeAndInjective :
    Const.legalProfile 24 4 = true ∧ (23 : BitVec 5).toNat < (24 : BitVec 6).toNat ∧
      (0 : BitVec 5).toNat < (24 : BitVec 6).toNat ∧ mapAddr 4 23 0 = mapAddr 4 23 0 := by decide

/-- A profile that fits, and one that does not. -/
theorem witness_ProfileFitsExactlyWhenWithin32 :
    (1 ≤ (32 : BitVec 6).toNat ∧ (32 : BitVec 6).toNat ≤ 32) ∧ mapAddr 0 31 31 < 1024 ∧ ¬ mapAddr 1 31 31 < 1024 := by
  decide

/-- The hypotheses of ADEC.NEXT's statement at (x, y) of a profile. -/
def rasterReady (v : BitVec 6) (k : BitVec 4) (x y : BitVec 5) : Bool :=
  Const.legalProfile v k && decide (x.toNat < v.toNat) && decide (y.toNat < v.toNat) &&
    (emitAt v k x y take).x == x && (emitAt v k x y take).y == y

/-- Inside a row, at its end, and at the last position. -/
theorem witness_AdecNextIsRowMajor :
    rasterReady 16 8 0 0 = true ∧ rasterReady 16 8 15 0 = true ∧ rasterReady 16 8 15 15 = true := by decide

theorem witness_PaletteKnownEntries : 96 ≤ (96 : Byte).toNat ∧ 96 ≤ (255 : Byte).toNat := by decide

theorem witness_ResetWritesEveryRegister : (hdrAt 3 { offer 0x43 with rst := true }).edge.rst = true := rfl

theorem witness_ResetStateIsWhatResetLeaves :
    (emitAt 16 8 3 4 { take with rst := true }).edge.rst = true := rfl

theorem witness_OutputPortsShowTheState :
    inReady (hdrAt 0 (offer 0x50)) = true ∧ inReady (bodyAt 127 6 (offer 0)) = true ∧
      outValid (emitAt 16 8 15 15 take) = true := by decide

/-- The hypotheses that every header statement shares, at offset `p`. -/
def headerReady (p : BitVec 6) (e : Edge) : Bool :=
  (hdrAt p e).phase == .hdr && !(hdrAt p e).eof && (hdrAt p e).edge.go && (hdrAt p e).hpos == p

theorem witness_HeaderTakesAMagicByte :
    headerReady 0 (offer 0x51) = true ∧ headerReady 3 (offer 0x42) = true ∧ (offer 0x42).inLast = false ∧
      (hdrAt 3 (offer 0x42)).magok = true ∧ (hdrAt 3 (offer 0x42)).edge.inData = 0x42 := by decide

theorem witness_HeaderTakesAnIgnoredOrLowByte : ∀ p : BitVec 6, p = 4 ∨ p = 5 ∨ p = 6 ∨ p = 8 ∨ p = 31 →
    headerReady p (offer 0xAB) = true ∧
      (p.toNat = 4 ∨ p.toNat = 5 ∨ p.toNat = 6 ∨ (8 ≤ p.toNat ∧ p.toNat ≤ 31)) := by decide

/-- Codes 0, 1 and 2. -/
theorem witness_HeaderTakesTheHighByte : headerReady 7 (offer 0) = true ∧ headerReady 7 (offerLast 0) = true ∧
    ∀ l ∈ ([0, 1, 2] : List Byte),
      256 * (offer 0).inData.toNat + { hdrAt 7 (offer 0) with dimlo := l }.dimlo.toNat ≤ 2 := by
  decide

theorem witness_HeaderEndsInTheReservedSpan : headerReady 8 (offerLast 0xFF) = true ∧ headerReady 31 (offerLast 0) = true ∧
    (offerLast 0xFF).inLast = true := by decide

theorem witness_HeaderTrapsBadMagic : headerReady 3 (offer 0x43) = true ∧ (offer 0x43).inData ≠ 0x42 ∧
    { hdrAt 3 (offerLast 0x42) with magok := false }.magok = false := by decide

/-- Codes 3, 256, 0xFFFF. -/
theorem witness_HeaderTrapsBadDimension : headerReady 7 (offer 0) = true ∧
    2 < 256 * (offer 0x00).inData.toNat + { hdrAt 7 (offer 0x00) with dimlo := 0x03 }.dimlo.toNat ∧
    2 < 256 * (offer 0x01).inData.toNat + (hdrAt 7 (offer 0x01)).dimlo.toNat ∧
    2 < 256 * (offer 0xFF).inData.toNat + { hdrAt 7 (offer 0xFF) with dimlo := 0xFF }.dimlo.toNat := by decide

theorem witness_HeaderTrapsTruncated : ∀ p : BitVec 6, p.toNat ≤ 6 →
    headerReady p (offerLast 0x42) = true ∧ (offerLast 0x42).inLast = true ∧ (hdrAt p (offerLast 0x42)).magok = true := by
  decide

theorem witness_BodyTakesAByte : ∀ s ∈ [bodyAt 0 0 (offer 0x81), bodyAt 127 6 (offerLast 0x00)],
    s.phase = .body ∧ s.eof = false ∧ s.edge.go = true ∧ s.gcnt.toNat ≤ 6 ∧ s.gidx.toNat ≤ 127 ∧
      Memory.wf s.idxbuf = true := by decide

theorem witness_PaddingTakesAZeroByte : ∀ s ∈ [endedAt 0 0, endedAt 127 6],
    s.phase = .body ∧ s.eof = true ∧ s.edge.go = true ∧ s.gcnt.toNat ≤ 6 ∧ s.gidx.toNat ≤ 127 ∧
      Memory.wf s.idxbuf = true := by decide

/-- Inside a row, at its end, and at the last position. -/
theorem witness_OutpixTransfersThePixel : ∀ s ∈ [emitAt 32 0 0 0 take, emitAt 24 4 23 22 take, emitAt 16 8 15 15 take],
    s.phase = .emit ∧ s.edge.go = true ∧ Const.legalProfile s.vsize s.skip = true ∧
      s.x.toNat < s.vsize.toNat ∧ s.y.toNat < s.vsize.toNat := by decide

theorem witness_DisabledStepsHaveNoEffect :
    ((emitAt 16 8 0 0 take).phase ≠ .hdr ∧ (emitAt 16 8 0 0 take).phase ≠ .body) ∧ (endedAt 0 0).eof = true ∧
      (hdrAt 0 { offer 0 with go := false }).edge.go = false ∧ (hdrAt 0 (offer 0)).phase ≠ .body ∧
      (bodyAt 0 0 (offer 0)).eof = false ∧ (bodyAt 0 0 (offer 0)).phase ≠ .emit := by decide

theorem witness_ModeChangesOnlyWithTheFirstByte :
    (∃ t, step (hdrAt 0 { offer 0x50 with cfgStencil := true }) = .next t ∧ t.mode ≠ .opaqueMode) ∧
    (∃ t, step { hdrAt 9 { offer 0 with rst := true } with mode := .stencilMode } = .next t ∧ t.mode ≠ .stencilMode) :=
  ⟨⟨_, rfl, by decide⟩, ⟨_, rfl, by decide⟩⟩

theorem witness_ProfileChangesOnlyAtOffset7 :
    (∃ t, step (hdrAt 7 (offer 0)) = .next t ∧ t.vsize ≠ 0) ∧
    (∃ t, step (emitAt 16 8 0 0 { take with rst := true }) = .next t ∧ t.vsize ≠ 16) :=
  ⟨⟨_, rfl, by decide⟩, ⟨_, rfl, by decide⟩⟩

/-- Each way from one phase to another. -/
theorem witness_PhaseTransitions :
    (∃ t, step (hdrAt 31 (offer 0)) = .next t ∧ t.phase = .body) ∧
    (∃ t, step (hdrAt 7 (offerLast 0)) = .next t ∧ t.phase = .body) ∧
    (∃ t, step (hdrAt 3 (offer 0)) = .next t ∧ t.phase = .err) ∧
    (∃ t, step (bodyAt 127 6 (offer 0)) = .next t ∧ t.phase = .emit) ∧
    (∃ t, step (emitAt 16 8 15 15 take) = .next t ∧ t.phase = .done) ∧
    (∃ t, step { emitAt 16 8 0 0 { take with rst := true } with phase := .done } = .next t ∧ t.phase = .hdr) :=
  ⟨⟨_, rfl, rfl⟩, ⟨_, rfl, rfl⟩, ⟨_, rfl, rfl⟩, ⟨_, rfl, rfl⟩, ⟨_, rfl, rfl⟩, ⟨_, rfl, rfl⟩⟩

theorem witness_TerminalPhasesHold :
    ({ hdrAt 3 (offer 0) with phase := .err, errc := .badMagic }.phase = .err ∧ (offer 0).rst = false) ∧
    ({ emitAt 16 8 0 0 take with phase := .done }.phase = .done ∧ take.rst = false) := by decide

theorem witness_IndexBufferChangesOnlyInBody :
    ∃ t, step (bodyAt 127 6 (offer 0x80)) = .next t ∧
      bufGet t.idxbuf 1023 ≠ bufGet (bodyAt 127 6 (offer 0x80)).idxbuf 1023 := ⟨_, rfl, by decide⟩

theorem witness_ShortAndCauseAreSticky :
    (∃ t, step (endedAt 1 3) = .next t ∧ t.short ≠ (endedAt 1 3).short) ∧
    (∃ t, step (hdrAt 3 (offer 0)) = .next t ∧ t.errc ≠ (hdrAt 3 (offer 0)).errc) ∧
    (∃ t, step { hdrAt 3 { offer 0 with rst := true } with phase := .err, errc := .badMagic, short := true } = .next t ∧
      t.short = false ∧ t.errc = .noCause) :=
  ⟨⟨_, rfl, by decide⟩, ⟨_, rfl, by decide⟩, ⟨_, rfl, rfl, rfl⟩⟩

theorem witness_EdgesWithoutATransferChangeNothing :
    ((hdrAt 0 { offer 0x50 with go := false }).edge.rst = false ∧ (hdrAt 0 { offer 0x50 with go := false }).edge.go = false) ∧
    ((emitAt 16 8 0 0 Edge.idle).edge.rst = false ∧ (emitAt 16 8 0 0 Edge.idle).phase = .emit ∧
      (emitAt 16 8 0 0 Edge.idle).edge.outReady = false) := by decide

theorem witness_ReservedBytesHaveNoEffect : ∀ p : BitVec 6, p = 4 ∨ p = 5 ∨ p = 8 ∨ p = 31 →
    (hdrAt p (offer 0xAB)).edges = offer 0xAB :: [] ∧ (hdrAt p (offer 0xAB)).phase = .hdr ∧
      (p.toNat = 4 ∨ p.toNat = 5 ∨ 8 ≤ p.toNat) ∧ (nextOf (step (hdrAt p (offer 0xAB)))).isSome = true := by decide

theorem witness_OutputLeavesOnlyInEmit : ∃ t, step (emitAt 16 8 0 0 take) = .next t ∧ t.pixels ≠ [] := ⟨_, rfl, by decide⟩

/-- A frame that the host is about to begin, host and block willing. -/
def ready : State := { State.reset with edges := [{ offer 0x50 with outReady := true }] }

theorem ready_regInv : RegInv ready where
  buf := rfl
  hdr := fun _ => ⟨by decide, rfl, rfl, rfl, rfl, rfl, rfl, rfl, fun _ => ⟨rfl, rfl⟩, fun _ => rfl, by decide, rfl⟩
  body := fun h => absurd h (by decide)
  emit := fun h => absurd h (by decide)
  done := fun h => absurd h (by decide)
  err := fun h => absurd h (by decide)
  cause := by decide
  short := by decide
  entries := fun _ _ => show (0 : Byte).toNat < 128 by decide

theorem ready_frameInv : FrameInv ready where
  regs := ready_regInv
  hdr := fun _ => ⟨rfl, rfl, by decide, fun h => absurd h (by decide)⟩
  body := fun h => absurd h (by decide)
  emit := fun h => absurd h (by decide)
  done := fun h => absurd h (by decide)
  err := fun h => absurd h (by decide)

/-- The first pixel on offer. -/
theorem emit_regInv : RegInv (emitAt 16 8 0 0 take) where
  buf := rfl
  hdr := fun h => absurd h (by decide)
  body := fun h => absurd h (by decide)
  emit := fun _ => ⟨rfl, rfl, rfl, rfl, by decide, by decide, rfl, rfl⟩
  done := fun h => absurd h (by decide)
  err := fun h => absurd h (by decide)
  cause := by decide
  short := by decide
  entries := fun _ _ => show (0 : Byte).toNat < 128 by decide

/-- The last byte of the first group. -/
theorem body_regInv : RegInv (bodyAt 0 6 { offer 0 with outReady := true }) where
  buf := rfl
  hdr := fun h => absurd h (by decide)
  body := fun _ => ⟨rfl, by decide, by decide, rfl, rfl, rfl, rfl, rfl⟩
  emit := fun h => absurd h (by decide)
  done := fun h => absurd h (by decide)
  err := fun h => absurd h (by decide)
  cause := by decide
  short := by decide
  entries := fun _ _ => show (0 : Byte).toNat < 128 by decide

/-- A whole header accepted, no body byte yet. -/
def headerDone : State :=
  { bodyAt 0 0 (offer 0x81) with file := [0x50, 0x49, 0x58, 0x42, 0, 0, 2, 0] ++ List.replicate 24 0 }

theorem headerDone_frameInv : FrameInv headerDone where
  regs :=
    { buf := rfl
      hdr := fun h => absurd h (by decide)
      body := fun _ => ⟨rfl, by decide, by decide, rfl, rfl, rfl, rfl, rfl⟩
      emit := fun h => absurd h (by decide)
      done := fun h => absurd h (by decide)
      err := fun h => absurd h (by decide)
      cause := by decide
      short := by decide
      entries := fun _ _ => show (0 : Byte).toNat < 128 by decide }
  hdr := fun h => absurd h (by decide)
  body := fun _ => ⟨⟨by decide, rfl, rfl⟩, fun _ => ⟨rfl, rfl⟩, fun h => absurd h (by decide),
    fun _ h => absurd h (Nat.not_lt_zero _), fun _ h => absurd h (Nat.not_lt_zero _)⟩
  emit := fun h => absurd h (by decide)
  done := fun h => absurd h (by decide)
  err := fun h => absurd h (by decide)

theorem witness_InvariantStatesNeverStop : RegInv ready ∧ RegInv (emitAt 16 8 0 0 take) := ⟨ready_regInv, emit_regInv⟩

theorem witness_StepKeepsTheRegisterInvariant :
    (RegInv ready ∧ ∃ t, step ready = .next t) ∧
    (RegInv (emitAt 16 8 0 0 take) ∧ ∃ t, step (emitAt 16 8 0 0 take) = .next t ∧ t.pixels ≠ []) :=
  ⟨⟨ready_regInv, _, rfl⟩, emit_regInv, _, rfl, by decide⟩

theorem witness_StepKeepsTheFrameInvariant :
    (FrameInv ready ∧ ∃ t, step ready = .next t ∧ t.file = [0x50]) ∧
    (FrameInv headerDone ∧ ∃ t, step headerDone = .next t ∧ t.gcnt = 1) :=
  ⟨⟨ready_frameInv, _, rfl, rfl⟩, headerDone_frameInv, _, rfl, rfl⟩

theorem witness_StepKeepsTheBufferForm :
    Memory.wf (bodyAt 127 6 (offer 0x80)).idxbuf = true ∧ ∃ t, step (bodyAt 127 6 (offer 0x80)) = .next t ∧ t.idxbuf ≠ [] :=
  ⟨rfl, _, rfl, by decide⟩

/-- Two bytes of a frame. -/
theorem witness_EveryReachableStateMeetsTheFrameInvariant :
    ∃ t, Sys2Proof.core.run 2 { State.reset with edges := [offer 0x50, offer 0x49] } = Host.Outcome.next t ∧
      State.hpos t = 2 := ⟨_, rfl, rfl⟩

theorem witness_WillingEdgeMakesProgress :
    (RegInv ready ∧ ¬ FrameOver ready ∧ willing ready = true) ∧
    (RegInv (bodyAt 0 6 { offer 0 with outReady := true }) ∧ ¬ FrameOver (bodyAt 0 6 { offer 0 with outReady := true }) ∧
      willing (bodyAt 0 6 { offer 0 with outReady := true }) = true) := by
  refine ⟨⟨ready_regInv, fun h => ?_, rfl⟩, body_regInv, fun h => ?_, rfl⟩ <;> rcases h with h | h <;> exact absurd h (by decide)

end Sys2Proof.Tests
end

section
/-! PROOFS of the family `00_scope.md`: what a clock edge performs (R11, R78) and what is known of the open palette (R7, R145). -/

namespace Sys2Proof.Machine

/-! ### A clock edge -/

/-- Every row of F-EVT takes every value of its operands, so what its decoder selects is well formed. -/
theorem wellFormed_of_mem_decodeEvt : ∀ e : BitVec 3, ∀ i ∈ decodeEvt e, i.WellFormed = true := by decide

theorem mem_decodeEvt_of_stepOp {s : State} {i : Instr} (h : stepOp s = some i) : i ∈ decodeEvt (evtWord s.edge) :=
  List.mem_of_find?_eq_some h

/-- A clock edge whose operation may also stop (for one that does not, see `step_of_exec`). -/
theorem step_eq_andThen_exec {s : State} {i : Instr} (h : stepOp s = some i) :
    step s = andThen (exec i s) fun t => .next t.tick := by
  simp only [step, h]

/-- Settles O7: the step selected is found in the decoder's list, and `step` performs it before the edge passes. -/
theorem stepPerformsTheSelectedOperation : Obligations.StepPerformsTheSelectedOperation := by
  intro s
  refine ⟨fun i h => ?_, step_of_none⟩
  have hmem := mem_decodeEvt_of_stepOp h
  exact ⟨hmem, wellFormed_of_mem_decodeEvt _ i hmem, step_eq_andThen_exec h⟩

/-! ### The open palette -/

theorem palColour_of_lt {idx : Byte} (h : idx.toNat < 96) : palColour idx = Const.palette idx.toNat := if_pos h

theorem palColour_of_ge {idx : Byte} (h : 96 ≤ idx.toNat) : palColour idx = 0xFFFFFF := if_neg (Nat.not_lt.mpr h)

theorem palette_zero : Const.palette 0 = 0xFFFFFF := rfl

/-- `S_BLACK` is a slot of the ROM other than slot 0, whatever the free number is (R145). -/
theorem sBlack_bounds : 0 < Const.sBlack ∧ Const.sBlack < 96 := by
  unfold Const.sBlack
  rw [palLen_eq]
  omega

/-- Slot 0 and the black slot are two slots, so the first does not hide the second. -/
theorem palette_sBlack : Const.palette Const.sBlack = 0x211E1F := by
  have hne : Const.sBlack ≠ 0 := sBlack_bounds.1.ne'
  unfold Const.palette
  rw [if_neg hne, if_pos rfl]
  rfl

/-- The black slot as an index: 8 bits hold it. -/
theorem sBlack_index_toNat : (BitVec.ofNat 8 Const.sBlack).toNat = Const.sBlack :=
  Nat.mod_eq_of_lt (sBlack_bounds.2.trans (by decide))

/-- Settles O27: the two known entries are read from the ROM, and an index beyond it gives the fallback. -/
theorem paletteKnownEntries : Obligations.PaletteKnownEntries := by
  have hblack : palColour (BitVec.ofNat 8 Const.sBlack) = 0x211E1F := by
    rw [palColour_of_lt (by rw [sBlack_index_toNat]; exact sBlack_bounds.2), sBlack_index_toNat, palette_sBlack]
  exact ⟨(palColour_of_lt (by decide)).trans palette_zero, fun _ => palColour_of_ge, sBlack_bounds, hblack⟩

end Sys2Proof.Machine
end

section
/-! PROOFS of the family `10_state.md`: what a clock edge can do, said once as the relation `StepTo`, and what follows from it
about every register: which steps change it (R26 to R31, R35, R38), the register invariant (R39), and reset (R40). -/

namespace Sys2Proof.Machine

/-! ### Which step a clock edge performs -/

/-- A row that the ports match is found exactly if its state condition holds. -/
theorem find?_row (s : State) (i : Instr) (c : Prop) [Decidable c] :
    (if c then [i] else []).find? (stepEnabled s) = if c ∧ stepEnabled s i = true then some i else none := by
  by_cases h : c <;> simp [h, List.find?_singleton]

/-- The rows of F-EVT in the decoder's order, each with its state condition (R78, R81). -/
theorem stepOp_eq (s : State) : stepOp s =
    if s.edge.rst = true then some (.seqReset s.edge.inValid s.edge.outReady)
    else if s.edge.inValid = true ∧ inReady s = true then some (.seqInbyte s.edge.outReady)
    else if s.edge.outReady = true ∧ outValid s = true then some (.seqOutpix s.edge.inValid)
    else if padReady s = true then some (.seqPadbyte s.edge.inValid s.edge.outReady)
    else none := by
  rw [stepOp, decodeEvt_evtWord, decodeEvtBits]
  by_cases hr : s.edge.rst = true
  · rw [if_pos hr, if_pos hr]
    rfl
  · rw [if_neg hr, if_neg hr, List.find?_append, List.find?_append, find?_row, find?_row, List.find?_singleton]
    change ((if s.edge.inValid = true ∧ inReady s = true then some _ else none).or
      (if s.edge.outReady = true ∧ outValid s = true then some _ else none)).or
      (if padReady s = true then some _ else none) = _
    split_ifs <;> rfl

theorem inReady_iff (s : State) :
    inReady s = true ↔ (s.phase = .hdr ∨ s.phase = .body) ∧ s.eof = false ∧ s.edge.go = true := by
  simp [inReady, inPermitted, and_assoc]

theorem padReady_iff (s : State) : padReady s = true ↔ s.phase = .body ∧ s.eof = true ∧ s.edge.go = true := by
  simp [padReady, padPermitted, and_assoc]

theorem outValid_iff (s : State) : outValid s = true ↔ s.phase = .emit ∧ s.edge.go = true := by
  simp [outValid, outPermitted]

/-! ### The header operation of an offset -/

/-- Everything the header operation of offset `p` can do (R101 to R107). -/
inductive HeaderTo (p : BitVec 6) (s : State) : State → Prop
  | magic (hp : p.toNat ≤ 3) (hm : p = 3 → magokNext s.magok s.wires.d 3 = true) :
    HeaderTo p s { s with magok := magokNext s.magok s.wires.d (p.extractLsb' 0 2) }
  | badMagic (hp : p = 3) (hm : magokNext s.magok s.wires.d 3 = false) :
    HeaderTo p s ({ s with magok := false }.trapEntry .badMagic)
  | dimlo (hp : p = 6) : HeaderTo p s { s with dimlo := s.wires.d }
  | profile (hp : p = 7) {q : Const.Profile} (hq : Const.profileOf (code16 s.wires.d s.dimlo).toInt = some q) :
    HeaderTo p s (s.setProfile q)
  | badDimension (hp : p = 7) (hq : Const.profileOf (code16 s.wires.d s.dimlo).toInt = none) :
    HeaderTo p s (s.trapEntry .badDimension)
  | skip (hp : p.toNat = 4 ∨ p.toNat = 5 ∨ (8 ≤ p.toNat ∧ p.toNat ≤ 31)) : HeaderTo p s s

/-- At every offset that occurs the header operation answers a next state. -/
theorem headerPart_answers {p : BitVec 6} (h : p.toNat ≤ 31) (s : State) :
    ∃ t, headerPart p s = .next t ∧ HeaderTo p s t := by
  have hcases : p.toNat ≤ 3 ∨ p = 6 ∨ p = 7 ∨ (p.toNat = 4 ∨ p.toNat = 5 ∨ (8 ≤ p.toNat ∧ p.toNat ≤ 31)) := by bv_omega
  rcases hcases with hp | rfl | rfl | hp
  · rw [headerPart_magic (by omega)]
    by_cases ht : p = 3 ∧ magokNext s.magok s.wires.d 3 = false
    · obtain ⟨rfl, hm⟩ := ht
      exact ⟨_, if_pos ⟨rfl, hm⟩, .badMagic rfl hm⟩
    · refine ⟨_, if_neg ?_, .magic hp fun h3 => by simpa [h3] using ht⟩
      rintro ⟨h3, hm⟩
      rw [h3] at hm
      exact ht ⟨(magicOffset_three hp).1 h3, hm⟩
  · exact ⟨_, rfl, .dimlo rfl⟩
  · rw [headerPart_dimhi, execHvDimhi_eq]
    cases hq : Const.profileOf (code16 s.wires.d s.dimlo).toInt with
    | some q => exact ⟨_, rfl, .profile rfl hq⟩
    | none => exact ⟨_, rfl, .badDimension rfl hq⟩
  · exact ⟨_, headerPart_skip hp s, .skip hp⟩

theorem HeaderTo.of_next {p : BitVec 6} {s t : State} (h : headerPart p s = .next t) : HeaderTo p s t := by
  by_cases hp : p.toNat ≤ 31
  · obtain ⟨u, hu, hto⟩ := headerPart_answers hp s
    cases hu.symm.trans h
    exact hto
  · cases (headerPart_beyond (by omega) s).symm.trans h

theorem HeaderTo.frame {p : BitVec 6} {s t : State} (h : HeaderTo p s t) : t = { s with
    magok := t.magok, dimlo := t.dimlo, vsize := t.vsize, skip := t.skip, phase := t.phase, errc := t.errc } := by
  cases h <;> rfl

theorem afterHeaderByte_frame (l : Bool) (s : State) : afterHeaderByte l s = { s with
    phase := (afterHeaderByte l s).phase, hpos := (afterHeaderByte l s).hpos, eof := (afterHeaderByte l s).eof
    errc := (afterHeaderByte l s).errc } := by
  unfold afterHeaderByte
  split_ifs <;> rfl

/-! ### The unpacker's part of a byte step -/

/-- Everything the unpacker can do with the byte of a step (R121, R123). -/
inductive BodyTo (s : State) : State → Prop
  | early (hi : s.gidx.toNat ≤ 127) (hg : s.gcnt.toNat ≤ 5) :
    BodyTo s { s with b := s.b.setIfInBounds s.gcnt.toNat s.wires.d, gcnt := s.gcnt + 1 }
  | last (hi : s.gidx.toNat ≤ 127) (hg : s.gcnt = 6) :
    BodyTo s { s with
      b := s.b.set 6 s.wires.d
      gcnt := 0
      gidx := s.gidx + 1
      phase := if s.gidx.toNat = 127 then .emit else s.phase
      idxbuf := bufStore s.idxbuf (8 * s.gidx.toNat)
        (expandLanes s.b[0] s.b[1] s.b[2] s.b[3] s.b[4] s.b[5] s.wires.d).toList }

theorem bodyPart_answers {s : State} (hi : s.gidx.toNat ≤ 127) (hg : s.gcnt.toNat ≤ 6) :
    ∃ t, bodyPart s = .next t ∧ BodyTo s t := by
  rw [bodyPart_load hg]
  by_cases h6 : s.gcnt = 6
  · rw [h6]
    exact ⟨_, execUnpLoad_last hi, .last hi h6⟩
  · have h5 : s.gcnt.toNat ≤ 5 := by bv_omega
    exact ⟨_, execUnpLoad_early hi h5, .early hi h5⟩

theorem execUnpLoad_gidx_beyond {s : State} (h : 128 ≤ s.gidx.toNat) (g : BitVec 3) :
    execUnpLoad g s = .refused .gidxUnreachable :=
  if_neg (show ¬ s.gidx.toNat < 128 by omega)

/-- GCNT 7 selects no row of F-GC (U18). -/
theorem bodyPart_gcnt_beyond {s : State} (h : ¬ s.gcnt.toNat ≤ 6) : bodyPart s = .refused (.noRow .gc) := by
  have h7 : s.gcnt = 7 := by bv_omega
  rw [bodyPart, h7]
  rfl

theorem BodyTo.of_next {s t : State} (h : bodyPart s = .next t) : BodyTo s t := by
  by_cases hg : s.gcnt.toNat ≤ 6
  · by_cases hi : s.gidx.toNat ≤ 127
    · obtain ⟨u, hu, hto⟩ := bodyPart_answers hi hg
      cases hu.symm.trans h
      exact hto
    · rw [bodyPart_load hg, execUnpLoad_gidx_beyond (by omega)] at h
      cases h
  · cases (bodyPart_gcnt_beyond hg).symm.trans h

theorem BodyTo.frame {s t : State} (h : BodyTo s t) : t = { s with
    b := t.b, gcnt := t.gcnt, gidx := t.gidx, phase := t.phase, idxbuf := t.idxbuf } := by
  cases h <;> rfl

/-! ### The pixel step -/

/-- The pixel of the position is transferred, and its values stand on the nets (R166); the position is still the old one. -/
def State.takePixel (s : State) : State := { s with
  wires := { s.wires with
    addr := BitVec.ofNat 10 (mapAddr s.skip s.y s.x)
    idx := bufGet s.idxbuf (mapAddr s.skip s.y s.x)
    rgb := palColour (bufGet s.idxbuf (mapAddr s.skip s.y s.x))
    pix := pixelNow s }
  pixels := s.pixels ++ [{ data := pixelNow s, last := lastPosition s.vsize s.y s.x }] }

/-- Everything ADEC.NEXT can do to the position (R134). -/
inductive PositionTo (v : BitVec 6) (y x : BitVec 5) (s : State) : State → Prop
  | column (hx : x.toNat + 1 ≠ v.toNat) : PositionTo v y x s { s with x := x + 1 }
  | row (hx : x.toNat + 1 = v.toNat) (hy : y.toNat + 1 ≠ v.toNat) : PositionTo v y x s { s with x := 0, y := y + 1 }
  | done (hx : x.toNat + 1 = v.toNat) (hy : y.toNat + 1 = v.toNat) :
    PositionTo v y x s { s with x := 0, y := 0, phase := .done }

theorem execAdecNext_answers {k : BitVec 4} {v : BitVec 6} (hl : Const.legalProfile v k = true) (y x : BitVec 5)
    (s : State) : ∃ t, execAdecNext k v y x s = .next t ∧ PositionTo v y x s t := by
  rw [execAdecNext, if_pos hl]
  by_cases hx : x.toNat + 1 = v.toNat
  · rw [if_neg (not_not.2 hx)]
    by_cases hy : y.toNat + 1 = v.toNat
    · exact ⟨_, if_neg (not_not.2 hy), .done hx hy⟩
    · exact ⟨_, if_pos hy, .row hx hy⟩
  · exact ⟨_, if_pos hx, .column hx⟩

theorem PositionTo.frame {v : BitVec 6} {y x : BitVec 5} {s t : State} (h : PositionTo v y x s t) :
    t = { s with x := t.x, y := t.y, phase := t.phase } := by
  cases h <;> rfl

/-- ADEC.MAP answers only inside IDXBUF and for a legal profile (R33, U18). -/
theorem execAdecMap_next {k : BitVec 4} {v : BitVec 6} {y x : BitVec 5} {s t : State}
    (h : execAdecMap k v y x s = .next t) : Const.legalProfile v k = true ∧ mapAddr k y x < 1024 := by
  unfold execAdecMap idxbufRead at h
  by_cases hl : Const.legalProfile v k = true
  · by_cases ha : mapAddr k y x < 1024
    · exact ⟨hl, ha⟩
    · simp [hl, ha] at h
  · simp [hl] at h

theorem execSeqOutpix_answers {i : Bool} {s : State} (hv : outValid s = true)
    (hl : Const.legalProfile s.vsize s.skip = true) (ha : mapAddr s.skip s.y s.x < 1024) :
    ∃ t, execSeqOutpix i s = .next t ∧ PositionTo s.vsize s.y s.x s.takePixel t := by
  obtain ⟨hp, hg⟩ := (outValid_iff s).1 hv
  rw [execSeqOutpix_enabled hp hg hl ha]
  exact execAdecNext_answers hl s.y s.x s.takePixel

theorem execSeqOutpix_next {i : Bool} {s t : State} (hv : outValid s = true) (h : execSeqOutpix i s = .next t) :
    Const.legalProfile s.vsize s.skip = true ∧ PositionTo s.vsize s.y s.x s.takePixel t := by
  have hmap : ∃ u, execAdecMap s.skip s.vsize s.y s.x s = .next u := by
    rw [execSeqOutpix, if_pos hv, andThen_eq_next] at h
    exact h.imp fun _ => And.left
  obtain ⟨u, hu⟩ := hmap
  obtain ⟨hl, ha⟩ := execAdecMap_next hu
  obtain ⟨t', ht', hto⟩ := execSeqOutpix_answers (i := i) hv hl ha
  cases ht'.symm.trans h
  exact ⟨hl, hto⟩

/-! ### A clock edge -/

/-- Every register of R40 at its reset value, and the frame's record closed (R160). -/
def State.afterReset (s : State) : State := { s with
  phase := .hdr, hpos := 0, magok := true, dimlo := 0, mode := .opaqueMode, vsize := 0, skip := 0, eof := false
  short := false, errc := .noCause, gcnt := 0, gidx := 0, x := 0, y := 0
  file := [], pixels := [], earlier := s.earlier ++ s.pixels }

theorem exec_seqReset (v r : Bool) (s : State) : exec (.seqReset v r) s = .next s.afterReset := rfl

/-- Everything a clock edge can do when it answers a next state (R11, R160 to R166, R170). -/
inductive StepTo (s : State) : State → Prop
  | reset (hr : s.edge.rst = true) : StepTo s s.afterReset.tick
  | header (hr : s.edge.rst = false) (hp : s.phase = .hdr) (he : s.eof = false) (hv : s.edge.inValid = true) {u : State}
    (hu : HeaderTo s.hpos s.acceptByte.latchMode u) : StepTo s (afterHeaderByte s.edge.inLast u).tick
  | bodyByte (hr : s.edge.rst = false) (hp : s.phase = .body) (he : s.eof = false) (hv : s.edge.inValid = true)
    {u : State} (hu : BodyTo s.acceptByte u) : StepTo s { u with eof := u.eof || s.edge.inLast }.tick
  | pad (hr : s.edge.rst = false) (hp : s.phase = .body) (he : s.eof = true) {u : State} (hu : BodyTo (s.withByte 0) u) :
    StepTo s { u with short := true }.tick
  | pixel (hr : s.edge.rst = false) (hp : s.phase = .emit) (ho : s.edge.outReady = true) (hv : outValid s = true)
    (hl : Const.legalProfile s.vsize s.skip = true) {u : State} (hu : PositionTo s.vsize s.y s.x s.takePixel u) :
    StepTo s u.tick
  | idle (hr : s.edge.rst = false) : StepTo s s.tick

theorem step_next_of_stepOp {s t : State} {i : Instr} (hop : stepOp s = some i) (h : step s = .next t) :
    ∃ u, exec i s = .next u ∧ t = u.tick := by
  rw [step_eq_andThen_exec hop, andThen_eq_next] at h
  obtain ⟨u, hu, ht⟩ := h
  cases ht
  exact ⟨u, hu, rfl⟩

theorem StepTo.of_inbyte {r : Bool} {s u : State} (hr : s.edge.rst = false) (hv : s.edge.inValid = true)
    (hi : inReady s = true) (h : execSeqInbyte r s = .next u) : StepTo s u.tick := by
  obtain ⟨hp | hp, he, hg⟩ := (inReady_iff s).1 hi
  · rw [execSeqInbyte_hdr hp he hg, andThen_eq_next] at h
    obtain ⟨w, hw, hu⟩ := h
    cases hu
    exact .header hr hp he hv (.of_next hw)
  · rw [execSeqInbyte_body hp he hg, andThen_eq_next] at h
    obtain ⟨w, hw, hu⟩ := h
    cases hu
    exact .bodyByte hr hp he hv (.of_next hw)

theorem StepTo.of_padbyte {v r : Bool} {s u : State} (hr : s.edge.rst = false) (hi : padReady s = true)
    (h : execSeqPadbyte v r s = .next u) : StepTo s u.tick := by
  obtain ⟨hp, he, hg⟩ := (padReady_iff s).1 hi
  rw [execSeqPadbyte_enabled hp he hg, andThen_eq_next] at h
  obtain ⟨w, hw, hu⟩ := h
  cases hu
  exact .pad hr hp he (.of_next hw)

/-- The inversion of `step`: every statement about all clock edges is a case split on it. -/
theorem StepTo.of_next {s t : State} (h : step s = .next t) : StepTo s t := by
  have hop := stepOp_eq s
  by_cases hr : s.edge.rst = true
  · rw [if_pos hr] at hop
    obtain ⟨u, hu, rfl⟩ := step_next_of_stepOp hop h
    cases (exec_seqReset _ _ s).symm.trans hu
    exact .reset hr
  rw [if_neg hr] at hop
  rw [Bool.not_eq_true] at hr
  split_ifs at hop with hin hout hpad
  · obtain ⟨u, hu, rfl⟩ := step_next_of_stepOp hop h
    exact .of_inbyte (r := s.edge.outReady) hr hin.1 hin.2 hu
  · obtain ⟨u, hu, rfl⟩ := step_next_of_stepOp hop h
    obtain ⟨hl, hto⟩ := execSeqOutpix_next (i := s.edge.inValid) hout.2 hu
    exact .pixel hr ((outValid_iff s).1 hout.2).1 hout.1 hout.2 hl hto
  · obtain ⟨u, hu, rfl⟩ := step_next_of_stepOp hop h
    exact .of_padbyte (v := s.edge.inValid) (r := s.edge.outReady) hr hpad hu
  · cases (step_of_none hop).symm.trans h
    exact .idle hr

/-! ### The register invariant, phase by phase -/

theorem RegInv.of_hdr {s : State} (hb : Memory.wf s.idxbuf = true) (hp : s.phase = .hdr) (h : HdrRegs s) : RegInv s where
  buf := hb
  hdr _ := h
  body := by simp [hp]
  emit := by simp [hp]
  done := by simp [hp]
  err := by simp [hp]
  cause := by simp [hp, h.errc]
  short := by simp [h.short]
  entries := by simp [h.gidx, groupBase_eq]

theorem RegInv.of_body {s : State} (hb : Memory.wf s.idxbuf = true) (hp : s.phase = .body) (h : BodyRegs s)
    (hs : s.short = true → s.eof = true) (he : ∀ a, a < groupBase s.gidx → (bufGet s.idxbuf a).toNat < 128) :
    RegInv s where
  buf := hb
  hdr := by simp [hp]
  body _ := h
  emit := by simp [hp]
  done := by simp [hp]
  err := by simp [hp]
  cause := by simp [hp, h.errc]
  short := hs
  entries := he

theorem RegInv.of_emit {s : State} (hb : Memory.wf s.idxbuf = true) (hp : s.phase = .emit) (h : EmitRegs s)
    (hs : s.short = true → s.eof = true) (he : ∀ a, a < groupBase s.gidx → (bufGet s.idxbuf a).toNat < 128) :
    RegInv s where
  buf := hb
  hdr := by simp [hp]
  body := by simp [hp]
  emit _ := h
  done := by simp [hp]
  err := by simp [hp]
  cause := by simp [hp, h.errc]
  short := hs
  entries := he

theorem RegInv.of_done {s : State} (hb : Memory.wf s.idxbuf = true) (hp : s.phase = .done) (h : DoneRegs s)
    (hs : s.short = true → s.eof = true) (he : ∀ a, a < groupBase s.gidx → (bufGet s.idxbuf a).toNat < 128) :
    RegInv s where
  buf := hb
  hdr := by simp [hp]
  body := by simp [hp]
  emit := by simp [hp]
  done _ := h
  err := by simp [hp]
  cause := by simp [hp, h.errc]
  short := hs
  entries := he

theorem RegInv.of_err {s : State} (hb : Memory.wf s.idxbuf = true) (hp : s.phase = .err) (hc : s.errc ≠ .noCause)
    (h : ErrRegs s) : RegInv s where
  buf := hb
  hdr := by simp [hp]
  body := by simp [hp]
  emit := by simp [hp]
  done := by simp [hp]
  err _ := h
  cause := by simp [hp, hc]
  short := by simp [h.short]
  entries := by simp [h.gidx, groupBase_eq]

/-- The register invariant does not speak of MODE or of the model's own record (log entries 3 to 6). -/
theorem RegInv.of_record {s : State} (h : RegInv s) (m : Mode) (w : Wires) (es : List Edge) (f : List Byte)
    (bs : List Beat) (c : Nat) :
    RegInv { s with mode := m, wires := w, edges := es, file := f, earlier := bs, cycle := c } where
  buf := h.buf
  hdr e := { h.hdr e with }
  body e := { h.body e with }
  emit e := { h.emit e with }
  done e := { h.done e with }
  err e := { h.err e with }
  cause := h.cause
  short := h.short
  entries := h.entries

theorem RegInv.tick {s : State} (h : RegInv s) : RegInv s.tick := h.of_record ..

theorem RegInv.withByte {s : State} (h : RegInv s) (d : Byte) : RegInv (s.withByte d) := h.of_record ..

theorem RegInv.acceptByte {s : State} (h : RegInv s) : RegInv s.acceptByte := h.of_record ..

theorem RegInv.latchMode {s : State} (h : RegInv s) : RegInv s.latchMode := h.of_record ..

/-! ### A header byte keeps it -/

/-- The registers after the header operation of the offset HPOS, without a trap, and before HPOS moves on. -/
structure HdrTaken (s : State) : Prop where
  phase : s.phase = .hdr
  hpos : s.hpos.toNat ≤ 31
  eof : s.eof = false
  short : s.short = false
  errc : s.errc = .noCause
  gidx : s.gidx = 0
  gcnt : s.gcnt = 0
  x : s.x = 0
  y : s.y = 0
  noProfile : s.hpos.toNat ≤ 6 → s.vsize = 0 ∧ s.skip = 0
  magic : 3 ≤ s.hpos.toNat → s.magok = true
  profile : 7 ≤ s.hpos.toNat → Const.legalProfile s.vsize s.skip = true
  pixels : s.pixels = []

theorem legalProfile_of_profileOf {c : Int} {q : Const.Profile} (h : Const.profileOf c = some q) :
    Const.legalProfile q.vsize q.skip = true := by
  unfold Const.profileOf at h
  split_ifs at h <;> cases h <;> decide

/-- What a trap out of HDR leaves, when no profile was selected (R186). -/
theorem HdrRegs.errRegs_trapEntry {s : State} (h : HdrRegs s) (hp : s.hpos.toNat ≤ 7) (c : ErrCause) :
    ErrRegs (s.trapEntry c) :=
  ⟨h.eof, h.short, h.gidx, h.gcnt, h.x, h.y, (h.noProfile hp).1, (h.noProfile hp).2, h.pixels⟩

theorem HdrRegs.headerTo {s u : State} (h : HdrRegs s) (hp : s.phase = .hdr) (hu : HeaderTo s.hpos s u) :
    HdrTaken u ∨ (u.phase = .err ∧ u.errc ≠ .noCause ∧ ErrRegs u) := by
  cases hu with
  | magic h3 hm =>
    refine .inl { h with
      phase := hp
      noProfile := fun _ => h.noProfile (by omega)
      magic := fun hge => ?_
      profile := fun (hge : 7 ≤ s.hpos.toNat) => absurd hge (by omega) }
    have e : s.hpos = 3 := by bv_omega
    rw [(magicOffset_three h3).2 e]
    exact hm e
  | badMagic h3 =>
    have hpos : s.hpos.toNat ≤ 7 := by rw [h3]; decide
    exact .inr ⟨rfl, nofun, { h.errRegs_trapEntry hpos .badMagic with }⟩
  | dimlo h6 =>
    have hpos : s.hpos.toNat = 6 := by rw [h6]; decide
    exact .inl { h with
      phase := hp
      noProfile := fun _ => h.noProfile (by omega)
      magic := fun _ => h.magic (by omega)
      profile := fun (hge : 7 ≤ s.hpos.toNat) => absurd hge (by omega) }
  | profile h7 hq =>
    have hpos : s.hpos.toNat = 7 := by rw [h7]; decide
    exact .inl { h with
      phase := hp
      noProfile := fun (hle : s.hpos.toNat ≤ 6) => absurd hle (by omega)
      magic := fun _ => h.magic (by omega)
      profile := fun _ => legalProfile_of_profileOf hq }
  | badDimension h7 =>
    have hpos : s.hpos.toNat ≤ 7 := by rw [h7]; decide
    exact .inr ⟨rfl, nofun, h.errRegs_trapEntry hpos .badDimension⟩
  | skip hs =>
    exact .inl { h with
      phase := hp
      noProfile := fun _ => h.noProfile (by omega)
      magic := fun _ => h.magic (by omega)
      profile := fun _ => h.profile (by omega) }

theorem afterHeaderByte_trapped {s : State} (h : s.phase = .err) (l : Bool) : afterHeaderByte l s = s := if_pos h

/-- The file goes on (R162). -/
theorem afterHeaderByte_more {s : State} (h : s.phase = .hdr) : afterHeaderByte false s =
    { s with hpos := s.hpos + 1, phase := if s.hpos.toNat + 1 = 32 then .body else .hdr } := by
  simp [afterHeaderByte, h]

/-- The file ends before the header is whole (R185). -/
theorem afterHeaderByte_truncated {s : State} (h : s.phase = .hdr) (hp : s.hpos.toNat ≤ 6) :
    afterHeaderByte true s = s.trapEntry .truncatedHeader := by
  simp [afterHeaderByte, h, show s.hpos.toNat + 1 < 8 by omega]

/-- The file ends with a whole header: the reserved span is skipped (R162 c). -/
theorem afterHeaderByte_ended {s : State} (h : s.phase = .hdr) (hp : 7 ≤ s.hpos.toNat) :
    afterHeaderByte true s = { s with eof := true, hpos := 32, phase := .body } := by
  simp [afterHeaderByte, h, show ¬ s.hpos.toNat + 1 < 8 by omega]

theorem HdrTaken.regInv_afterHeaderByte {s : State} (h : HdrTaken s) (hb : Memory.wf s.idxbuf = true) (l : Bool) :
    RegInv (afterHeaderByte l s) := by
  have hnone (a : Nat) (ha : a < groupBase s.gidx) : (bufGet s.idxbuf a).toNat < 128 := by
    simp [h.gidx, groupBase_eq] at ha
  have hgidx : s.gidx.toNat ≤ 127 := by rw [h.gidx]; decide
  have hgcnt : s.gcnt.toNat ≤ 6 := by rw [h.gcnt]; decide
  have hsucc := hpos_succ h.hpos
  cases l with
  | false =>
    rw [afterHeaderByte_more h.phase]
    by_cases h31 : s.hpos.toNat + 1 = 32
    · have h32 : s.hpos + 1 = 32 := by bv_omega
      exact .of_body hb (if_pos h31) { h with hpos := h32, gidx := hgidx, gcnt := hgcnt, profile := h.profile (by omega) }
        (by simp [h.short]) hnone
    · have hle := h.hpos
      exact .of_hdr hb (if_neg h31) { h with
        hpos := by simp only [hsucc]; omega
        noProfile := fun hn => h.noProfile (by simp only [hsucc] at hn; omega)
        magic := fun hn => h.magic (by simp only [hsucc] at hn; omega)
        profile := fun hn => h.profile (by simp only [hsucc] at hn; omega) }
  | true =>
    by_cases h6 : s.hpos.toNat ≤ 6
    · rw [afterHeaderByte_truncated h.phase h6]
      exact .of_err hb rfl nofun { h with vsize := (h.noProfile h6).1, skip := (h.noProfile h6).2 }
    · rw [afterHeaderByte_ended h.phase (by omega)]
      exact .of_body hb rfl { h with hpos := rfl, gidx := hgidx, gcnt := hgcnt, profile := h.profile (by omega) }
        (fun _ => rfl) hnone

theorem RegInv.headerByte {s u : State} (h : RegInv s) (hp : s.phase = .hdr) (hu : HeaderTo s.hpos s u) (l : Bool) :
    RegInv (afterHeaderByte l u) := by
  have hb : Memory.wf u.idxbuf = true := (congrArg State.idxbuf hu.frame).symm ▸ h.buf
  rcases (h.hdr hp).headerTo hp hu with ht | ⟨he, hc, hr⟩
  · exact ht.regInv_afterHeaderByte hb l
  · rw [afterHeaderByte_trapped he]
    exact .of_err hb he hc hr

/-! ### A body byte keeps it -/

/-- Every lane is a 7-bit number (R124). -/
theorem expandLanes_lt (b0 b1 b2 b3 b4 b5 b6 : Byte) (k : Fin 8) :
    ((expandLanes b0 b1 b2 b3 b4 b5 b6)[k]).toNat < 128 := by
  have hlow (v : Byte) (h : v.msb = false) : v.toNat < 128 := by
    simpa using BitVec.toNat_lt_of_msb_false h
  apply hlow
  fin_cases k <;> simp [expandLanes, BitVec.msb_eq_getLsbD_last]

/-- The entries of a finished group are its lanes, and those of the groups before it stay. -/
theorem BodyTo.entries_lt {s u : State} (hu : BodyTo s u) (hw : Memory.wf s.idxbuf = true)
    (he : ∀ a, a < groupBase s.gidx → (bufGet s.idxbuf a).toNat < 128) :
    ∀ a, a < groupBase u.gidx → (bufGet u.idxbuf a).toNat < 128 := by
  cases hu with
  | early => exact he
  | last hi =>
    obtain ⟨-, hin, hout⟩ := bufStore_lanes hw hi (expandLanes s.b[0] s.b[1] s.b[2] s.b[3] s.b[4] s.b[5] s.wires.d)
    intro a ha
    simp only [groupBase_eq, gidx_succ hi] at ha he ⊢
    by_cases hlt : a < 8 * s.gidx.toNat
    · rw [hout a (.inl hlt)]
      exact he a hlt
    · have hk := hin ⟨a - 8 * s.gidx.toNat, by omega⟩
      simp only [Nat.add_sub_cancel' (Nat.not_lt.1 hlt)] at hk
      rw [hk]
      exact expandLanes_lt ..

theorem BodyTo.bufWf {s u : State} (hu : BodyTo s u) (hw : Memory.wf s.idxbuf = true) : Memory.wf u.idxbuf = true := by
  cases hu with
  | early => exact hw
  | last hi => exact (bufStore_lanes hw hi _).1

theorem RegInv.bodyByte {s u : State} (h : RegInv s) (hp : s.phase = .body) (hu : BodyTo s u) : RegInv u := by
  have hb := hu.bufWf h.buf
  have he := hu.entries_lt h.buf h.entries
  have hr := h.body hp
  have hbounds := legalProfile_bounds hr.profile
  cases hu with
  | early hi hg =>
    exact .of_body hb hp { hr with gcnt := by simp only [gcnt_succ hg]; omega } h.short he
  | last hi hg =>
    by_cases h127 : s.gidx.toNat = 127
    · have h128 : s.gidx + 1 = 128 := by bv_omega
      exact .of_emit hb (if_pos h127) { hr with
        gidx := h128, gcnt := rfl
        x := by simp only [hr.x]; simp; omega
        y := by simp only [hr.y]; simp; omega
        pixels := by simp [hr.pixels, hr.x, hr.y] } h.short he
    · exact .of_body hb ((if_neg h127).trans hp) { hr with
        gidx := by simp only [gidx_succ hi]; omega
        gcnt := Nat.zero_le 6 } h.short he

/-- EOF and SHORT of a byte step are written together with SHORT implying EOF (R26). -/
theorem RegInv.setEnd {s : State} (h : RegInv s) (hp : s.phase = .body ∨ s.phase = .emit) {e sh : Bool}
    (hse : sh = true → e = true) : RegInv { s with eof := e, short := sh } := by
  obtain hp | hp := hp
  · exact .of_body h.buf hp { h.body hp with } hse h.entries
  · exact .of_emit h.buf hp { h.emit hp with } hse h.entries

theorem BodyTo.phase_eq {s u : State} (hu : BodyTo s u) (hp : s.phase = .body) : u.phase = .body ∨ u.phase = .emit := by
  cases hu with
  | early => exact .inl hp
  | last =>
    by_cases h : s.gidx.toNat = 127
    · exact .inr (if_pos h)
    · exact .inl ((if_neg h).trans hp)

/-! ### A pixel keeps it -/

theorem RegInv.pixel {s u : State} (h : RegInv s) (hp : s.phase = .emit)
    (hu : PositionTo s.vsize s.y s.x s.takePixel u) : RegInv u := by
  have hr := h.emit hp
  obtain ⟨-, hv, -⟩ := legalProfile_bounds hr.profile
  have hx := hr.x
  have hy := hr.y
  have hlen : s.takePixel.pixels.length = s.y.toNat * s.vsize.toNat + s.x.toNat + 1 := by
    simp [State.takePixel, hr.pixels]
  cases hu with
  | column hne =>
    have hs := coord_succ (x := s.x) (v := s.vsize.toNat) (by omega) hv
    exact .of_emit h.buf hp { hr with
      x := by simp only [hs]; exact (by omega : s.x.toNat + 1 < s.vsize.toNat)
      pixels := hlen.trans (by simp only [hs]; rfl) } h.short h.entries
  | row hxe hne =>
    have hs := coord_succ (x := s.y) (v := s.vsize.toNat) (by omega) hv
    refine .of_emit h.buf hp { hr with
      x := Nat.lt_of_le_of_lt (Nat.zero_le _) hx
      y := by simp only [hs]; exact (by omega : s.y.toNat + 1 < s.vsize.toNat)
      pixels := hlen.trans ?_ } h.short h.entries
    change _ = (s.y + 1).toNat * s.vsize.toNat + 0
    rw [hs, Nat.add_mul, ← hxe]
    omega
  | done hxe hye =>
    refine .of_done h.buf rfl { hr with x := rfl, y := rfl, pixels := hlen.trans ?_ } h.short h.entries
    change _ = s.vsize.toNat * s.vsize.toNat
    rw [add_assoc, hxe, ← Nat.succ_mul, Nat.succ_eq_add_one, hye]

/-! ### Reset meets it -/

theorem RegInv.afterReset {s : State} (hb : Memory.wf s.idxbuf = true) : RegInv s.afterReset :=
  .of_hdr hb rfl ⟨Nat.zero_le 31, rfl, rfl, rfl, rfl, rfl, rfl, rfl, fun _ => ⟨rfl, rfl⟩, fun _ => rfl, nofun, rfl⟩

/-- Settles O55: each thing a clock edge can do keeps the invariant of its phase, or leads to the next phase's. -/
theorem stepKeepsTheRegisterInvariant : Obligations.StepKeepsTheRegisterInvariant := by
  intro s t h hstep
  cases StepTo.of_next hstep with
  | reset => exact (RegInv.afterReset h.buf).tick
  | header _ hp _ _ hu => exact (h.acceptByte.latchMode.headerByte hp hu _).tick
  | bodyByte _ hp he _ hu =>
    refine RegInv.tick ((h.acceptByte.bodyByte hp hu).setEnd (hu.phase_eq hp) fun hs => ?_)
    have hshort : s.short = true := (congrArg State.short hu.frame).symm.trans hs
    simp [h.short hshort] at he
  | pad _ hp he hu =>
    have heof : _ = true := (congrArg State.eof hu.frame).trans he
    exact RegInv.tick (((h.withByte 0).bodyByte hp hu).setEnd (hu.phase_eq hp) fun _ => heof)
  | pixel _ hp _ _ _ hu => exact (h.pixel hp hu).tick
  | idle => exact h.tick

/-! ### What a step leaves alone -/

/-- A header byte writes MODE with offset 0 only, and leaves the unpacker, the buffer, the raster and the transfers alone. -/
theorem headerByte_frame {s u : State} (hu : HeaderTo s.hpos s.acceptByte.latchMode u) (l : Bool) :
    afterHeaderByte l u = { s with
      wires := { s.wires with d := s.edge.inData }
      file := s.file ++ [s.edge.inData]
      mode := if s.hpos = 0 then modeOf s.edge.cfgStencil else s.mode
      magok := u.magok, dimlo := u.dimlo, vsize := u.vsize, skip := u.skip
      phase := (afterHeaderByte l u).phase, hpos := (afterHeaderByte l u).hpos, eof := (afterHeaderByte l u).eof
      errc := (afterHeaderByte l u).errc } :=
  (afterHeaderByte_frame l u).trans (congrArg (fun w : State => { w with
    phase := (afterHeaderByte l u).phase, hpos := (afterHeaderByte l u).hpos, eof := (afterHeaderByte l u).eof
    errc := (afterHeaderByte l u).errc }) hu.frame)

/-- The header operation of offset 7 alone writes VSIZE and SKIP (R28). -/
theorem HeaderTo.profile_cases {p : BitVec 6} {s u : State} (hu : HeaderTo p s u) :
    (u.vsize = s.vsize ∧ u.skip = s.skip) ∨ (p = 7 ∧ Const.legalProfile u.vsize u.skip = true) := by
  cases hu with
  | profile h7 hq => exact .inr ⟨h7, legalProfile_of_profileOf hq⟩
  | magic => exact .inl ⟨rfl, rfl⟩
  | badMagic => exact .inl ⟨rfl, rfl⟩
  | dimlo => exact .inl ⟨rfl, rfl⟩
  | badDimension => exact .inl ⟨rfl, rfl⟩
  | skip => exact .inl ⟨rfl, rfl⟩

/-- A header operation writes ERRC with a trap only (R29). -/
theorem HeaderTo.errc_cases {p : BitVec 6} {s u : State} (hu : HeaderTo p s u) :
    u.errc = s.errc ∨ (u.phase = .err ∧ u.errc ≠ .noCause) := by
  cases hu with
  | badMagic => exact .inr ⟨rfl, nofun⟩
  | badDimension => exact .inr ⟨rfl, nofun⟩
  | magic => exact .inl rfl
  | dimlo => exact .inl rfl
  | profile => exact .inl rfl
  | skip => exact .inl rfl

/-- What follows the header operation writes ERRC with a trap only (R185). -/
theorem afterHeaderByte_errc_cases (l : Bool) (s : State) : (afterHeaderByte l s).errc = s.errc ∨
    ((afterHeaderByte l s).phase = .err ∧ (afterHeaderByte l s).errc ≠ .noCause) := by
  unfold afterHeaderByte
  split_ifs
  · exact .inl rfl
  · exact .inr ⟨rfl, nofun⟩
  all_goals exact .inl rfl

/-- The unpacker changes entries of the finished group only (R63). -/
theorem BodyTo.group_of_entry_ne {s u : State} (hu : BodyTo s u) {a : Nat} (h : bufGet u.idxbuf a ≠ bufGet s.idxbuf a) :
    s.gcnt = 6 ∧ 8 * s.gidx.toNat ≤ a ∧ a < 8 * s.gidx.toNat + 8 := by
  cases hu with
  | early => exact absurd rfl h
  | last _ hg =>
    refine ⟨hg, ?_⟩
    by_contra hout
    exact h (bufGet_bufStore_outside _ _ _ _ (by simp only [Vector.length_toList]; omega))

/-- No row's ports and state condition are both met. -/
theorem stepOp_eq_none {s : State} (hr : s.edge.rst = false) (hi : ¬ (s.edge.inValid = true ∧ inReady s = true))
    (ho : ¬ (s.edge.outReady = true ∧ outValid s = true)) (hpad : padReady s = false) : stepOp s = none := by
  rw [stepOp_eq, if_neg (by simp [hr]), if_neg hi, if_neg ho, if_neg (by simp [hpad])]

/-! ### Rules about every step -/

/-- Settles O45: only a reset and a header byte write MODE, the latter with offset 0. -/
theorem modeChangesOnlyWithTheFirstByte : Obligations.ModeChangesOnlyWithTheFirstByte := by
  intro s t h hne
  cases StepTo.of_next h with
  | reset hr => exact .inl ⟨hr, rfl⟩
  | header hr hp _ hv hu =>
    have hmode := congrArg State.mode (headerByte_frame hu s.edge.inLast)
    by_cases h0 : s.hpos = 0
    · exact .inr ⟨hr, hp, h0, hv, hmode.trans (if_pos h0)⟩
    · exact absurd (hmode.trans (if_neg h0)) hne
  | bodyByte _ _ _ _ hu => exact absurd (congrArg State.mode hu.frame :) hne
  | pad _ _ _ hu => exact absurd (congrArg State.mode hu.frame :) hne
  | pixel _ _ _ _ _ hu => exact absurd (congrArg State.mode hu.frame :) hne
  | idle => exact absurd rfl hne

/-- Settles O46: only a reset and the header operation of offset 7 write the profile. -/
theorem profileChangesOnlyAtOffset7 : Obligations.ProfileChangesOnlyAtOffset7 := by
  intro s t h hne
  have hkeep {v : BitVec 6} {k : BitVec 4} (hv : v = s.vsize) (hk : k = s.skip) : ¬ (v ≠ s.vsize ∨ k ≠ s.skip) := by
    simp [hv, hk]
  cases StepTo.of_next h with
  | reset hr => exact .inl ⟨hr, rfl, rfl⟩
  | header hr hp _ _ hu =>
    have hvsize := congrArg State.vsize (headerByte_frame hu s.edge.inLast)
    have hskip := congrArg State.skip (headerByte_frame hu s.edge.inLast)
    obtain ⟨hv, hk⟩ | ⟨h7, hl⟩ := hu.profile_cases
    · exact absurd hne (hkeep (hvsize.trans hv) (hskip.trans hk))
    · refine .inr ⟨hr, hp, h7, ?_⟩
      simp only [State.tick_vsize, State.tick_skip, hvsize, hskip, hl]
  | bodyByte _ _ _ _ hu => exact absurd hne (hkeep (congrArg State.vsize hu.frame :) (congrArg State.skip hu.frame :))
  | pad _ _ _ hu => exact absurd hne (hkeep (congrArg State.vsize hu.frame :) (congrArg State.skip hu.frame :))
  | pixel _ _ _ _ _ hu => exact absurd hne (hkeep (congrArg State.vsize hu.frame :) (congrArg State.skip hu.frame :))
  | idle => exact absurd hne (hkeep rfl rfl)

/-- Settles O49: of all steps only a byte step of BODY writes IDXBUF, and it stores one group. -/
theorem indexBufferChangesOnlyInBody : Obligations.IndexBufferChangesOnlyInBody := by
  intro s t h a hne
  have hkeep {m : Idxbuf} (hm : m = s.idxbuf) : ¬ bufGet m a ≠ bufGet s.idxbuf a := by simp [hm]
  cases StepTo.of_next h with
  | reset => exact absurd rfl hne
  | header _ _ _ _ hu => exact absurd hne (hkeep (congrArg State.idxbuf (headerByte_frame hu s.edge.inLast) :))
  | bodyByte hr hp _ _ hu => exact ⟨hr, hp, hu.group_of_entry_ne hne⟩
  | pad hr hp _ hu => exact ⟨hr, hp, hu.group_of_entry_ne hne⟩
  | pixel _ _ _ _ _ hu => exact absurd hne (hkeep (congrArg State.idxbuf hu.frame :))
  | idle => exact absurd rfl hne

/-- Settles O50: a pad step writes SHORT, a trap out of HDR writes ERRC, and a reset clears both. -/
theorem shortAndCauseAreSticky : Obligations.ShortAndCauseAreSticky := by
  intro s t h
  cases StepTo.of_next h with
  | reset hr => exact ⟨fun _ => .inl ⟨hr, rfl⟩, fun _ => .inl ⟨hr, rfl⟩⟩
  | header _ hp _ _ hu =>
    refine ⟨(absurd (congrArg State.short (headerByte_frame hu s.edge.inLast) :) ·), fun hne => .inr ⟨hp, ?_⟩⟩
    obtain he | he := afterHeaderByte_errc_cases s.edge.inLast _
    · obtain hc | ⟨hph, hc⟩ := hu.errc_cases
      · exact absurd (he.trans hc) hne
      · have hstay := afterHeaderByte_trapped hph s.edge.inLast
        exact ⟨(congrArg State.phase hstay).trans hph, fun h0 => hc (he.symm.trans h0)⟩
    · exact he
  | bodyByte _ _ _ _ hu =>
    exact ⟨(absurd (congrArg State.short hu.frame :) ·), (absurd (congrArg State.errc hu.frame :) ·)⟩
  | pad _ hp he hu => exact ⟨fun _ => .inr ⟨hp, he, rfl⟩, (absurd (congrArg State.errc hu.frame :) ·)⟩
  | pixel _ _ _ _ _ hu => exact ⟨(absurd (congrArg State.short hu.frame :) ·), (absurd (congrArg State.errc hu.frame :) ·)⟩
  | idle => exact ⟨absurd rfl, absurd rfl⟩

theorem outData_of_valid {s : State} (h : outValid s = true) : outData s = pixelNow s := if_pos h

theorem outLast_of_valid {s : State} (h : outValid s = true) : outLast s = lastPosition s.vsize s.y s.x := if_pos h

/-- Settles O53: only a pixel step adds a transfer, and it is the pixel on the ports; a reset moves the record. -/
theorem outputLeavesOnlyInEmit : Obligations.OutputLeavesOnlyInEmit := by
  intro s t h
  cases StepTo.of_next h with
  | reset hr => exact .inr (.inl ⟨hr, rfl, rfl⟩)
  | header hr _ _ _ hu =>
    have hframe := headerByte_frame hu s.edge.inLast
    exact .inl ⟨hr, (congrArg State.pixels hframe :), (congrArg State.earlier hframe :)⟩
  | bodyByte hr _ _ _ hu => exact .inl ⟨hr, (congrArg State.pixels hu.frame :), (congrArg State.earlier hu.frame :)⟩
  | pad hr _ _ hu => exact .inl ⟨hr, (congrArg State.pixels hu.frame :), (congrArg State.earlier hu.frame :)⟩
  | pixel hr hp ho hv _ hu =>
    refine .inr (.inr ⟨hr, hp, ho, hv, ?_, (congrArg State.earlier hu.frame :)⟩)
    rw [outData_of_valid hv, outLast_of_valid hv]
    exact (congrArg State.pixels hu.frame :)
  | idle hr => exact .inl ⟨hr, rfl, rfl⟩

/-- Settles O57: of all steps only a byte step of BODY writes IDXBUF, and its stores keep the canonical form. -/
theorem stepKeepsTheBufferForm : Obligations.StepKeepsTheBufferForm := by
  intro s t hw h
  have hkeep {m : Idxbuf} (hm : m = s.idxbuf) : Memory.wf m = true := hm.symm ▸ hw
  cases StepTo.of_next h with
  | reset => exact hw
  | header _ _ _ _ hu => exact hkeep (congrArg State.idxbuf (headerByte_frame hu s.edge.inLast) :)
  | bodyByte _ _ _ _ hu => exact hu.bufWf hw
  | pad _ _ _ hu => exact hu.bufWf hw
  | pixel _ _ _ _ _ hu => exact hkeep (congrArg State.idxbuf hu.frame :)
  | idle => exact hw

/-- Settles O51: with no row's state condition met only the edge passes, and a tick keeps what is on offer. -/
theorem edgesWithoutATransferChangeNothing : Obligations.EdgesWithoutATransferChangeNothing := by
  intro s hr
  refine ⟨fun hg => step_of_none ?_, fun hp ho => ⟨s.tick, step_of_none ?_, hp, rfl, rfl, rfl⟩⟩
  · exact stepOp_eq_none hr (by simp [inReady, hg]) (by simp [outValid, hg]) (by simp [padReady, hg])
  · exact stepOp_eq_none hr (by simp [inReady_iff, hp]) (by simp [ho]) (by simp [padReady, padPermitted, hp])

/-! ### No stop -/

/-- Inside the raster of a legal profile every address is one of IDXBUF (R57, R132). -/
theorem mapAddr_lt_of_regs {s : State} (h : EmitRegs s) : mapAddr s.skip s.y s.x < 1024 := by
  obtain ⟨-, -, hfit⟩ := legalProfile_bounds h.profile
  have hx := h.x
  have hy := h.y
  rw [mapAddr_eq]
  omega

theorem execSeqInbyte_answers {r : Bool} {s : State} (h : RegInv s) (hi : inReady s = true) :
    ∃ u, execSeqInbyte r s = .next u := by
  obtain ⟨hp | hp, he, hg⟩ := (inReady_iff s).1 hi
  · obtain ⟨u, hu, -⟩ := headerPart_answers (h.hdr hp).hpos s.acceptByte.latchMode
    exact ⟨_, by rw [execSeqInbyte_hdr hp he hg, hu, andThen_next]⟩
  · obtain ⟨u, hu, -⟩ := bodyPart_answers (s := s.acceptByte) (h.body hp).gidx (h.body hp).gcnt
    exact ⟨_, by rw [execSeqInbyte_body hp he hg, hu, andThen_next]⟩

theorem execSeqPadbyte_answers {v r : Bool} {s : State} (h : RegInv s) (hi : padReady s = true) :
    ∃ u, execSeqPadbyte v r s = .next u := by
  obtain ⟨hp, he, hg⟩ := (padReady_iff s).1 hi
  obtain ⟨u, hu, -⟩ := bodyPart_answers (s := s.withByte 0) (h.body hp).gidx (h.body hp).gcnt
  exact ⟨_, by rw [execSeqPadbyte_enabled hp he hg, hu, andThen_next]⟩

/-- Settles O54: whichever step is selected, the invariant's ranges are those in which its parts answer. -/
theorem invariantStatesNeverStop : Obligations.InvariantStatesNeverStop := by
  intro s h
  have hop := stepOp_eq s
  split_ifs at hop with hr hin hout hpad
  · exact ⟨_, step_of_exec hop (exec_seqReset _ _ s)⟩
  · obtain ⟨u, hu⟩ := execSeqInbyte_answers (r := s.edge.outReady) h hin.2
    exact ⟨_, step_of_exec hop hu⟩
  · have hregs := h.emit ((outValid_iff s).1 hout.2).1
    obtain ⟨u, hu, -⟩ := execSeqOutpix_answers (i := s.edge.inValid) hout.2 hregs.profile (mapAddr_lt_of_regs hregs)
    exact ⟨_, step_of_exec hop hu⟩
  · obtain ⟨u, hu⟩ := execSeqPadbyte_answers (v := s.edge.inValid) (r := s.edge.outReady) h hpad
    exact ⟨_, step_of_exec hop hu⟩
  · exact ⟨_, step_of_none hop⟩

/-- Settles O20: each operation checks the register it would use before anything else. -/
theorem unreachableRegistersAreRefused : Obligations.UnreachableRegistersAreRefused := by
  intro s
  refine ⟨execUnpLoad_gidx_beyond, fun h => ?_, fun h => if_pos h, fun k v y x hl => ?_⟩
  · exact if_neg (show ¬ s.gidx.toNat < 128 by omega)
  · have hill : ¬ Const.legalProfile v k = true := by simp [hl]
    exact ⟨if_neg hill, if_neg hill⟩

/-! ### Reset and the ports -/

/-- Settles O32: a reset edge performs SEQ.RESET, which writes the reset values. -/
theorem resetStateIsWhatResetLeaves : Obligations.ResetStateIsWhatResetLeaves := by
  intro s hr
  have hop : stepOp s = some (.seqReset s.edge.inValid s.edge.outReady) := (stepOp_eq s).trans (if_pos hr)
  refine ⟨s.afterReset.tick, step_of_exec hop (exec_seqReset _ _ s), ?_⟩
  exact ⟨rfl, rfl, rfl, rfl, rfl, rfl, rfl, rfl, rfl, rfl, rfl, rfl, rfl, rfl, rfl, rfl, rfl, rfl, rfl⟩

theorem lastPosition_iff (v : BitVec 6) (y x : BitVec 5) :
    lastPosition v y x = true ↔ x.toNat + 1 = v.toNat ∧ y.toNat + 1 = v.toNat := by
  simp [lastPosition]

theorem Phase.code_toNat (p : Phase) :
    p.code.toNat = (match p with | .hdr => 0 | .body => 1 | .emit => 2 | .done => 3 | .err => 4) := by
  cases p <;> rfl

theorem ErrCause.code_toNat (c : ErrCause) :
    c.code.toNat = (match c with | .noCause => 0 | .badMagic => 1 | .badDimension => 2 | .truncatedHeader => 3) := by
  cases c <;> rfl

/-- Settles O33: each port is the function of the state that Machine/Ports.lean gives, read while it is valid. -/
theorem outputPortsShowTheState : Obligations.OutputPortsShowTheState := by
  intro s
  refine ⟨fun h => ?_, fun h => ⟨((outValid_iff s).1 h).1, outData_of_valid h, ?_⟩, s.phase.code_toNat, s.errc.code_toNat,
    ?_, rfl⟩
  · obtain ⟨hp, he, -⟩ := (inReady_iff s).1 h
    exact ⟨hp, he⟩
  · rw [outLast_of_valid h, lastPosition_iff]
  · cases h : s.short <;> simp [stShort, h]

/-- The reset state is a state after a reset but for the model's own record. -/
theorem reset_regInv (es : List Edge) : RegInv { State.reset with edges := es } :=
  (RegInv.afterReset (s := State.reset) reset_bufWf).of_record ..

/-- Settles O58: the reset state is in HDR with no byte delivered, and the other phases' parts say nothing of it. -/
theorem resetMeetsTheInvariants : Obligations.ResetMeetsTheInvariants := by
  intro es
  have hfile : HdrFrame { State.reset with edges := es } := ⟨rfl, rfl, nofun, nofun⟩
  exact ⟨reset_regInv es, reset_regInv es, fun _ => hfile, nofun, nofun, nofun, nofun⟩

end Sys2Proof.Machine
end

section
/-! PROOFS of the family `20_memory.md`: the eight formulas of R123 against the fields of the 56-bit group (R51, R72, R124).
Lane `m + 1` straddles bytes `m` and `m + 1` of the group, on the formulas' side and on the fields' side alike. -/

namespace Sys2Proof.Machine

/-- The bytes of a group lie in it at every eighth bit, the first one lowest, and above them nothing (R51, R72). -/
theorem groupWord_byte (b0 b1 b2 b3 b4 b5 b6 : Byte) (k : Fin 8) :
    (groupWord b0 b1 b2 b3 b4 b5 b6).extractLsb' (8 * k.val) 8 = #v[b0, b1, b2, b3, b4, b5, b6, 0#8][k] := by
  refine BitVec.eq_of_getLsbD_eq fun j hj => ?_
  rw [BitVec.getLsbD_extractLsb', groupWord_getLsbD]
  fin_cases k <;> simp +arith [hj]

theorem getLsbD_and_lowMask (x : Byte) (n : Nat) {j : Nat} (hj : j < 8) :
    (x &&& BitVec.ofNat 8 (2 ^ n - 1)).getLsbD j = (decide (j < n) && x.getLsbD j) := by
  rw [BitVec.getLsbD_and, BitVec.getLsbD_ofNat, Nat.testBit_two_pow_sub_one, decide_eq_true hj, Bool.true_and,
    Bool.and_comm]

/-- Lane 0 begins with byte 0, and seven bits of it are the lane. -/
theorem laneField_zero (g : BitVec 56) : laneField g 0 = g.extractLsb' 0 8 &&& 0x7F := by
  refine BitVec.eq_of_getLsbD_eq fun j hj => ?_
  rw [laneField_getLsbD, show (0x7F : Byte) = BitVec.ofNat 8 (2 ^ 7 - 1) from rfl, getLsbD_and_lowMask _ _ hj]
  simp [hj]

/-- Lane `m + 1` begins at bit `7 (m + 1) = 8 m + (7 - m)` of the group: it is the high `m + 1` bits of byte `m`, with the
low `6 - m` bits of byte `m + 1` above them. -/
theorem laneField_succ (g : BitVec 56) {m : Nat} (hm : m < 7) :
    laneField g (m + 1) = ((g.extractLsb' (8 * (m + 1)) 8 &&& BitVec.ofNat 8 (2 ^ (6 - m) - 1)) <<< (m + 1)) |||
      (g.extractLsb' (8 * m) 8 >>> (7 - m)) := by
  refine BitVec.eq_of_getLsbD_eq fun j hj => ?_
  rw [laneField_getLsbD, BitVec.getLsbD_or, BitVec.getLsbD_shiftLeft, BitVec.getLsbD_ushiftRight]
  by_cases hlow : j < m + 1
  · have hbit : 7 * (m + 1) + j = 8 * m + (7 - m + j) := by omega
    simp [hlow, hbit, show j < 7 by omega, show 7 - m + j < 8 by omega]
  · have hbit : 7 * (m + 1) + j = 8 * (m + 1) + (j - (m + 1)) := by omega
    have hmask : j - (m + 1) < 6 - m ↔ j < 7 := by omega
    rw [getLsbD_and_lowMask _ _ (by omega)]
    simp [hlow, hbit, hmask, hj, show ¬ 7 - m + j < 8 by omega, show j - (m + 1) < 8 by omega]

/-- The formulas of lanes 1 to 7 have one shape; in the last one nothing stands above the bits of b6 (R123, C1). -/
theorem expandLanes_succ (b0 b1 b2 b3 b4 b5 b6 : Byte) (m : Fin 7) :
    (expandLanes b0 b1 b2 b3 b4 b5 b6)[m.succ] =
      ((#v[b0, b1, b2, b3, b4, b5, b6, 0#8][m.succ] &&& BitVec.ofNat 8 (2 ^ (6 - m.val) - 1)) <<< (m.val + 1)) |||
        (#v[b0, b1, b2, b3, b4, b5, b6, 0#8][m.castSucc] >>> (7 - m.val)) := by
  fin_cases m <;> simp [expandLanes]

/-- Settles O18: lane 0 lies in byte 0, and each later lane is put together from the same two bytes on both sides. -/
theorem lanesAreTheFieldsOfTheGroup : Obligations.LanesAreTheFieldsOfTheGroup := by
  intro b0 b1 b2 b3 b4 b5 b6 k
  have hbyte := groupWord_byte b0 b1 b2 b3 b4 b5 b6
  cases k using Fin.cases with
  | zero => exact ((laneField_zero _).trans (congrArg (· &&& 0x7F) (hbyte 0))).symm
  | succ m =>
    rw [expandLanes_succ, ← hbyte m.succ, ← hbyte m.castSucc]
    exact (laneField_succ _ m.isLt).symm

end Sys2Proof.Machine
end

section
/-! PROOFS of the family `30_encoding.md`: a word by its fields, decoding and encoding as inverses (R70 to R84), the rows of the
operation map against the decoders (R81, R82), and which step the control inputs and the state select (R78, R171). -/

namespace Sys2Proof

/-! ### A word by its fields -/

/-- A word is its high part over its low part. -/
theorem exists_eq_append {n m : Nat} (w : BitVec (n + m)) : ∃ (a : BitVec n) (b : BitVec m), w = a ++ b :=
  ⟨_, _, BitVec.extractLsb'_append_extractLsb'.symm⟩

/-- The four fields of F-XY (R74). -/
theorem exists_xy_fields (w : BitVec 20) :
    ∃ (k : BitVec 4) (v : BitVec 6) (y x : BitVec 5), w = (k ++ v ++ y ++ x : BitVec 20) := by
  obtain ⟨kvy, x, rfl⟩ := exists_eq_append (n := 15) (m := 5) w
  obtain ⟨kv, y, rfl⟩ := exists_eq_append (n := 10) (m := 5) kvy
  obtain ⟨k, v, rfl⟩ := exists_eq_append (n := 4) (m := 6) kv
  exact ⟨k, v, y, x, rfl⟩

/-- A header word with the magic good is its dimension code and the two ignored bytes over the magic (R71). -/
theorem exists_hdr_fields {h : BitVec 64} (hm : h.extractLsb' 0 32 = Const.magicWord) :
    ∃ c ign : BitVec 16, h = (c ++ ign ++ Const.magicWord : BitVec 64) := by
  obtain ⟨hi, lo, rfl⟩ := exists_eq_append (n := 32) (m := 32) h
  obtain ⟨c, ign, rfl⟩ := exists_eq_append (n := 16) (m := 16) hi
  obtain rfl : lo = Const.magicWord := BitVec.extractLsb'_append_eq_right.symm.trans hm
  exact ⟨c, ign, rfl⟩

/-! ### Each decoder by the fields of its word -/

/-- F-HDR with the magic good, by the bits of the code: the legal codes are small, so their sign does not matter (R83 b). -/
theorem decodeHdr_fields (c ign : BitVec 16) : decodeHdr (c ++ ign ++ Const.magicWord : BitVec 64) =
    if c = 0 then .ok (.hvDim0 ign) else if c = 1 then .ok (.hvDim1 ign)
    else if c = 2 then .ok (.hvDim2 ign) else .error .badDimension := by
  have h0 : c.toInt = 0 ↔ c = 0 := BitVec.toInt_inj (y := 0#16)
  have h1 : c.toInt = 1 ↔ c = 1 := BitVec.toInt_inj (y := 1#16)
  have h2 : c.toInt = 2 ↔ c = 2 := BitVec.toInt_inj (y := 2#16)
  simp only [decodeHdr_append, h0, h1, h2]

theorem decodeHdr_badMagic {h : BitVec 64} (hm : h.extractLsb' 0 32 ≠ Const.magicWord) :
    decodeHdr h = .error .badMagic := if_pos hm

/-- The operations of a counter value that occurs (R81). -/
theorem decodeGc_of_ne_seven : ∀ {g : BitVec 3}, g ≠ 7 →
    decodeGc g = .ok (if g = 6 then [.unpLoad g, .unpExpand] else [.unpLoad g]) := by decide

/-- GCNT 7 is rejected, so an answer is that of a value that occurs (U18). -/
theorem decodeGc_eq_ok {g : BitVec 3} {l : List Instr} (h : decodeGc g = .ok l) :
    g ≠ 7 ∧ l = if g = 6 then [.unpLoad g, .unpExpand] else [.unpLoad g] := by
  have h7 : g ≠ 7 := by
    rintro rfl
    cases h
  exact ⟨h7, Except.ok.inj (h.symm.trans (decodeGc_of_ne_seven h7))⟩

theorem decode_off_of_ok {p : BitVec 6} {i : Instr} (h : decodeOff p = .ok i) : decode .off p = .ok [i] :=
  congrArg (Except.map fun i => [i]) h

theorem decode_hdr_of_ok {w : BitVec 64} {i : Instr} (h : decodeHdr w = .ok i) : decode .hdr w = .ok [i] :=
  congrArg (Except.map fun i => [i]) h

theorem map_singleton_eq_ok {x : Except DecodeError Instr} {l : List Instr} (h : (x.map fun i => [i]) = .ok l) :
    ∃ i, x = .ok i ∧ l = [i] := by
  cases x with
  | error e => cases h
  | ok i => exact ⟨i, rfl, (Except.ok.inj h).symm⟩

/-! ### Encoding, then decoding -/

theorem decodeOff_encode_magic : ∀ p : BitVec 2, decodeOff (0#4 ++ p) = .ok (.hvMagic p) := by decide

/-- The offsets that are left to the default row of F-OFF (R82, R84 d). -/
theorem wellFormed_hvSkip_iff {p : BitVec 6} :
    (Instr.hvSkip p).WellFormed = true ↔ p.toNat = 4 ∨ p.toNat = 5 ∨ (8 ≤ p.toNat ∧ p.toNat ≤ 31) := by
  revert p; decide

theorem wellFormed_unpLoad_iff {g : BitVec 3} : (Instr.unpLoad g).WellFormed = true ↔ g ≠ 7 := by
  revert g; decide

theorem wellFormed_compStClear_iff {c : Rgb} :
    (Instr.compStClear c).WellFormed = true ↔ c ≠ Const.stBlackRgb ∧ c ≠ Const.stWhiteRgb := decide_eq_true_iff

/-- Settles O1: the word of each operation is put together from its fields, and its format's decoder reads them back. -/
theorem encodeThenDecodeEveryOperation : Obligations.EncodeThenDecodeEveryOperation := by
  intro i hwf
  cases i with
  | hvMagic p => exact ⟨_, decode_off_of_ok (decodeOff_encode_magic p), List.mem_singleton_self _⟩
  | hvDimlo => exact ⟨_, rfl, List.mem_singleton_self _⟩
  | hvDimhi => exact ⟨_, rfl, List.mem_singleton_self _⟩
  | hvSkip p =>
    exact ⟨_, decode_off_of_ok (decodeOff_skip (wellFormed_hvSkip_iff.1 hwf)), List.mem_singleton_self _⟩
  | hvDim0 ign => exact ⟨_, decode_hdr_of_ok (decodeHdr_fields 0 ign), List.mem_singleton_self _⟩
  | hvDim1 ign => exact ⟨_, decode_hdr_of_ok (decodeHdr_fields 1 ign), List.mem_singleton_self _⟩
  | hvDim2 ign => exact ⟨_, decode_hdr_of_ok (decodeHdr_fields 2 ign), List.mem_singleton_self _⟩
  | unpLoad g => exact ⟨_, decodeGc_of_ne_seven (wellFormed_unpLoad_iff.1 hwf), by split_ifs <;> exact List.mem_cons_self⟩
  | unpExpand => exact ⟨_, rfl, by decide⟩
  | adecMap k v y x => exact ⟨_, congrArg Except.ok (decodeXy_append k v y x), by simp⟩
  | adecNext k v y x => exact ⟨_, congrArg Except.ok (decodeXy_append k v y x), by simp⟩
  | palRomLo i => exact ⟨_, rfl, by revert i; decide⟩
  | palRomHi i => exact ⟨_, rfl, by revert i; decide⟩
  | palWhite7 i => exact ⟨_, rfl, by revert i; decide⟩
  | palWhite8 i => exact ⟨_, rfl, by revert i; decide⟩
  | compOpaque c => exact ⟨_, rfl, List.mem_singleton.2 (decodeCmp_append 0 c).symm⟩
  | compStBlack => exact ⟨_, rfl, by decide⟩
  | compStWhite => exact ⟨_, rfl, by decide⟩
  | compStClear c =>
    obtain ⟨hb, hw⟩ := wellFormed_compStClear_iff.1 hwf
    have hc : decodeCmp (1#1 ++ c) = .compStClear c := by rw [decodeCmp_append, if_neg (by decide), if_neg hb, if_neg hw]
    exact ⟨_, rfl, List.mem_singleton.2 hc.symm⟩
  | seqReset v r => exact ⟨_, rfl, by revert v r; decide⟩
  | seqInbyte r => exact ⟨_, rfl, by revert r; decide⟩
  | seqPadbyte v r => exact ⟨_, rfl, by revert v r; decide⟩
  | seqOutpix v => exact ⟨_, rfl, by revert v; decide⟩

/-! ### Decoding, then encoding -/

/-- `i` is a well-formed operation of the format `f`, and its word is `w`. -/
def IsWordOf (f : Format) (w : BitVec f.width) (i : Instr) : Prop :=
  i.WellFormed = true ∧ i.format = f ∧ (encode i).toNat = w.toNat

/-- The row's own bits put back before its operand give the offset. -/
theorem magicOffset_word {p : BitVec 6} (h : p.toNat < 4) : (0#4 ++ p.extractLsb' 0 2 : BitVec 6) = p := by
  revert h; revert p; decide

theorem white7_index {i : Byte} (h : ¬ i.toNat < 96) (h' : i.toNat < 128) :
    (0b011#3 ++ i.extractLsb' 0 5 : BitVec 8) = i := by
  revert h h'; revert i; decide

theorem white8_index {i : Byte} (h : ¬ i.toNat < 128) : (1#1 ++ i.extractLsb' 0 7 : BitVec 8) = i := by
  revert h; revert i; decide

theorem isWordOf_of_decodeOff {p : BitVec 6} {i : Instr} (h : decodeOff p = .ok i) : IsWordOf .off p i := by
  have hcases : p.toNat < 4 ∨ p = 6 ∨ p = 7 ∨ (p.toNat = 4 ∨ p.toNat = 5 ∨ (8 ≤ p.toNat ∧ p.toNat ≤ 31)) ∨
    32 ≤ p.toNat := by bv_omega
  rcases hcases with hp | rfl | rfl | hp | hp
  · cases (decodeOff_magic hp).symm.trans h
    exact ⟨rfl, rfl, congrArg BitVec.toNat (magicOffset_word hp)⟩
  · cases h
    exact ⟨rfl, rfl, rfl⟩
  · cases h
    exact ⟨rfl, rfl, rfl⟩
  · cases (decodeOff_skip hp).symm.trans h
    exact ⟨wellFormed_hvSkip_iff.2 hp, rfl, rfl⟩
  · cases (decodeOff_beyond hp).symm.trans h

theorem isWordOf_of_decodeHdr {w : BitVec 64} {i : Instr} (h : decodeHdr w = .ok i) : IsWordOf .hdr w i := by
  by_cases hm : w.extractLsb' 0 32 = Const.magicWord
  · obtain ⟨c, ign, rfl⟩ := exists_hdr_fields hm
    rw [decodeHdr_fields] at h
    split_ifs at h with h0 h1 h2 <;> cases h
    · exact ⟨rfl, rfl, by rw [h0]; rfl⟩
    · exact ⟨rfl, rfl, by rw [h1]; rfl⟩
    · exact ⟨rfl, rfl, by rw [h2]; rfl⟩
  · cases (decodeHdr_badMagic hm).symm.trans h

theorem isWordOf_of_mem_decodeGc {g : BitVec 3} {l : List Instr} {i : Instr} (h : decodeGc g = .ok l) (hi : i ∈ l) :
    IsWordOf .gc g i := by
  obtain ⟨h7, rfl⟩ := decodeGc_eq_ok h
  have hload := wellFormed_unpLoad_iff.2 h7
  split_ifs at hi with h6
  · subst h6
    obtain rfl | rfl := List.mem_pair.1 hi
    · exact ⟨hload, rfl, rfl⟩
    · exact ⟨rfl, rfl, rfl⟩
  · cases List.mem_singleton.1 hi
    exact ⟨hload, rfl, rfl⟩

theorem isWordOf_of_mem_decodeXy {w : BitVec 20} {i : Instr} (h : i ∈ decodeXy w) : IsWordOf .xy w i := by
  obtain ⟨k, v, y, x, rfl⟩ := exists_xy_fields w
  rw [decodeXy_append] at h
  obtain rfl | rfl := List.mem_pair.1 h <;> exact ⟨rfl, rfl, rfl⟩

theorem isWordOf_decodeIdx (w : BitVec 8) : IsWordOf .idx w (decodeIdx w) := by
  rw [decodeIdx_eq]
  split_ifs with h64 h96 h128
  · exact ⟨rfl, rfl, congrArg BitVec.toNat (romLo_index h64)⟩
  · exact ⟨rfl, rfl, congrArg BitVec.toNat (romHi_index h64 h96)⟩
  · exact ⟨rfl, rfl, congrArg BitVec.toNat (white7_index h96 h128)⟩
  · exact ⟨rfl, rfl, congrArg BitVec.toNat (white8_index h128)⟩

theorem isWordOf_decodeCmp (w : BitVec 25) : IsWordOf .cmp w (decodeCmp w) := by
  obtain ⟨m, c, rfl⟩ := exists_eq_append (n := 1) (m := 24) w
  obtain rfl | rfl : m = 0 ∨ m = 1 := by bv_omega
  · rw [decodeCmp_append, if_pos rfl]
    exact ⟨rfl, rfl, rfl⟩
  · rw [decodeCmp_append, if_neg (by decide)]
    split_ifs with hb hw
    · exact ⟨rfl, rfl, by rw [hb]; rfl⟩
    · exact ⟨rfl, rfl, by rw [hw]; rfl⟩
    · exact ⟨wellFormed_compStClear_iff.2 ⟨hb, hw⟩, rfl, rfl⟩

theorem isWordOf_of_mem_decodeEvt : ∀ e : BitVec 3, ∀ i ∈ decodeEvt e, IsWordOf .evt e i := by
  unfold IsWordOf
  decide

/-- Settles O2: format by format, the decoder's answer has the word that it was read from. -/
theorem decodedOperationsEncodeBack : Obligations.DecodedOperationsEncodeBack := by
  intro f w l i h hi
  change IsWordOf f w i
  cases f with
  | off =>
    obtain ⟨j, hj, rfl⟩ := map_singleton_eq_ok h
    cases List.mem_singleton.1 hi
    exact isWordOf_of_decodeOff hj
  | hdr =>
    obtain ⟨j, hj, rfl⟩ := map_singleton_eq_ok h
    cases List.mem_singleton.1 hi
    exact isWordOf_of_decodeHdr hj
  | gc => exact isWordOf_of_mem_decodeGc h hi
  | xy =>
    cases h
    exact isWordOf_of_mem_decodeXy hi
  | idx =>
    cases h
    cases List.mem_singleton.1 hi
    exact isWordOf_decodeIdx w
  | cmp =>
    cases h
    cases List.mem_singleton.1 hi
    exact isWordOf_decodeCmp w
  | evt =>
    cases h
    exact isWordOf_of_mem_decodeEvt w i hi

/-! ### The rows of the operation map against the decoders -/

open Laws.EncodingMatchesRow in
theorem encodingMatchesRow : ∀ i : Instr, Statement i
  | .hvMagic p => hvMagic p
  | .hvDimlo => hvDimlo
  | .hvDimhi => hvDimhi
  | .hvSkip p => hvSkip p
  | .hvDim0 ign => hvDim0 ign
  | .hvDim1 ign => hvDim1 ign
  | .hvDim2 ign => hvDim2 ign
  | .unpLoad g => unpLoad g
  | .unpExpand => unpExpand
  | .adecMap k v y x => adecMap k v y x
  | .adecNext k v y x => adecNext k v y x
  | .palRomLo i => palRomLo i
  | .palRomHi i => palRomHi i
  | .palWhite7 i => palWhite7 i
  | .palWhite8 i => palWhite8 i
  | .compOpaque c => compOpaque c
  | .compStBlack => compStBlack
  | .compStWhite => compStWhite
  | .compStClear c => compStClear c
  | .seqReset v r => seqReset v r
  | .seqInbyte r => seqInbyte r
  | .seqPadbyte v r => seqPadbyte v r
  | .seqOutpix v => seqOutpix v

theorem selects_iff (r : OpRow) (w : Nat) : r.selects w = true ↔ w &&& r.mask = r.value := beq_iff_eq

/-- Two rows ask for different values of a bit that both masks compare. -/
def OpRow.Clashes (r q : OpRow) : Prop := r.value &&& q.mask ≠ q.value &&& r.mask

theorem OpRow.Clashes.not_both_select {r q : OpRow} (h : r.Clashes q) {w : Nat} (hr : r.selects w = true) :
    ¬ q.selects w = true := by
  intro hq
  apply h
  rw [← (selects_iff r w).1 hr, ← (selects_iff q w).1 hq]
  exact Nat.and_right_comm ..

/-- In the formats in which one row acts, a row that does not have fewer 1 bits in its mask than `q` clashes with `q`, unless
`q` is one of the two default rows, which leave a word to the rows above them by their operands (R82). -/
theorem rows_ranked : ∀ r ∈ opTable, ∀ q ∈ opTable, r.format = q.format →
    (q.format = .off ∨ q.format = .hdr ∨ q.format = .idx ∨ q.format = .cmp) →
    r = q ∨ r.maskBits < q.maskBits ∨ r.Clashes q ∨ q = (Instr.hvSkip 0).row ∨ q = (Instr.compStClear 0).row := by
  unfold OpRow.Clashes
  decide

theorem eq_hvSkip_of_row {i : Instr} (h : i.row = (Instr.hvSkip 0).row) : ∃ p, i = .hvSkip p := by
  cases i with
  | hvSkip p => exact ⟨p, rfl⟩
  | _ => simp [Instr.row] at h

theorem eq_compStClear_of_row {i : Instr} (h : i.row = (Instr.compStClear 0).row) : ∃ c, i = .compStClear c := by
  cases i with
  | compStClear c => exact ⟨c, rfl⟩
  | _ => simp [Instr.row] at h

theorem eq_hvSkip_row_of_selects : ∀ p : BitVec 6, (Instr.hvSkip p).WellFormed = true →
    ∀ r ∈ opTable, r.format = .off → r.selects p.toNat = true → r = (Instr.hvSkip 0).row := by decide

/-- A stencil row that compares the whole word matches one colour only. -/
theorem colour_of_selects {r : OpRow} {c k : Rgb} (hm : r.mask = 2 ^ 25 - 1) (hv : r.value = (1#1 ++ k).toNat)
    (h : r.selects (1#1 ++ c).toNat = true) : c = k := by
  rw [selects_iff, hm, Nat.and_two_pow_sub_one_of_lt_two_pow (1#1 ++ c).isLt, hv] at h
  have hc := congrArg (BitVec.extractLsb' 0 24) (BitVec.eq_of_toNat_eq h)
  rwa [BitVec.extractLsb'_append_eq_right, BitVec.extractLsb'_append_eq_right] at hc

theorem eq_compStClear_row_of_selects {c : Rgb} (hwf : (Instr.compStClear c).WellFormed = true) {r : OpRow}
    (hr : r ∈ opTable) (hf : r.format = .cmp) (h : r.selects (1#1 ++ c).toNat = true) : r = (Instr.compStClear 0).row := by
  have hrows : ∀ r ∈ opTable, r.format = .cmp → r.Clashes (Instr.compStClear 0).row ∨ r = Instr.compStBlack.row ∨
      r = Instr.compStWhite.row ∨ r = (Instr.compStClear 0).row := by
    unfold OpRow.Clashes
    decide
  obtain ⟨hb, hw⟩ := wellFormed_compStClear_iff.1 hwf
  obtain ⟨-, -, hsel⟩ := encodingMatchesRow _ hwf
  obtain hclash | rfl | rfl | rfl := hrows r hr hf
  · exact absurd hsel (hclash.not_both_select h)
  · exact absurd (colour_of_selects rfl rfl h) hb
  · exact absurd (colour_of_selects rfl rfl h) hw
  · rfl

/-- Settles O3: a row that clashes with the selected one does not match, and where a default row is selected, its operation's
word is one that the rows above it do not match. -/
theorem selectedRowHasGreatestMask : Obligations.SelectedRowHasGreatestMask := by
  intro f w i hf h
  obtain ⟨hwf, rfl, hword⟩ := decodedOperationsEncodeBack f w [i] i h (List.mem_singleton_self i)
  obtain ⟨hmem, hfmt, hsel⟩ := encodingMatchesRow i hwf
  rw [← hword]
  refine ⟨hmem, hfmt, hsel, fun r hr hrf hrsel => ?_⟩
  obtain heq | hlt | hclash | hskip | hclear := rows_ranked r hr i.row hmem (hrf.trans hfmt.symm) (hfmt.symm ▸ hf)
  · exact .inl heq
  · exact .inr hlt
  · exact absurd hsel (hclash.not_both_select hrsel)
  · obtain ⟨p, rfl⟩ := eq_hvSkip_of_row hskip
    exact .inl (eq_hvSkip_row_of_selects p hwf r hr hrf hrsel)
  · obtain ⟨c, rfl⟩ := eq_compStClear_of_row hclear
    exact .inl (eq_compStClear_row_of_selects hwf hr hrf hrsel)

theorem selects_iff_mem_decodeGc : ∀ g : BitVec 3, g ≠ 7 → ∀ r ∈ opTable, r.format = .gc →
    (r.selects g.toNat = true ↔
      ∃ i ∈ if g = 6 then [Instr.unpLoad g, .unpExpand] else [Instr.unpLoad g], i.row = r) := by decide

theorem selects_iff_mem_decodeEvt : ∀ e : BitVec 3, ∀ r ∈ opTable, r.format = .evt →
    (r.selects e.toNat = true ↔ ∃ i ∈ decodeEvt e, i.row = r) := by decide

/-- Both rows of F-XY compare no bit. -/
theorem rows_of_xy : ∀ r ∈ opTable, r.format = .xy →
    r.mask = 0 ∧ r.value = 0 ∧ (r = (Instr.adecMap 0 0 0 0).row ∨ r = (Instr.adecNext 0 0 0 0).row) := by decide

theorem selects_iff_mem_decodeXy (w : BitVec 20) {r : OpRow} (hr : r ∈ opTable) (hf : r.format = .xy) :
    r.selects w.toNat = true ↔ ∃ i ∈ decodeXy w, i.row = r := by
  obtain ⟨hm, hv, hrow⟩ := rows_of_xy r hr hf
  have hsel : r.selects w.toNat = true := by rw [selects_iff, hm, hv, Nat.and_zero]
  refine ⟨fun _ => ?_, fun _ => hsel⟩
  obtain rfl | rfl := hrow
  · exact ⟨_, List.mem_cons_self, rfl⟩
  · exact ⟨_, List.mem_cons_of_mem _ List.mem_cons_self, rfl⟩

/-- Settles O4: in each of the three formats the decoder lists an operation for every row that matches. -/
theorem everyMatchingRowIsSelected : Obligations.EveryMatchingRowIsSelected := by
  rintro f w l (rfl | rfl | rfl) h r hr hf
  · obtain ⟨h7, rfl⟩ := decodeGc_eq_ok h
    exact selects_iff_mem_decodeGc w h7 r hr hf
  · cases h
    exact selects_iff_mem_decodeXy w hr hf
  · cases h
    exact selects_iff_mem_decodeEvt w r hr hf

/-! ### Illegal headers and words written out -/

theorem decodeHdr_eq_badDimension_iff (c ign : BitVec 16) :
    decodeHdr (c ++ ign ++ Const.magicWord : BitVec 64) = .error .badDimension ↔ ¬ c.toNat ≤ 2 := by
  rw [decodeHdr_fields]
  split_ifs with h0 h1 h2
  · simp [h0]
  · simp [h1]
  · simp [h2]
  · simp only [true_iff]
    bv_omega

/-- Settles O5: the magic is checked first, and a word with the magic good is taken apart into its code. -/
theorem illegalHeadersAreRejected : Obligations.IllegalHeadersAreRejected := by
  intro h
  change (_ ↔ h.extractLsb' 0 32 ≠ Const.magicWord) ∧ (_ ↔ h.extractLsb' 0 32 = Const.magicWord ∧ _)
  by_cases hm : h.extractLsb' 0 32 = Const.magicWord
  · obtain ⟨c, ign, rfl⟩ := exists_hdr_fields hm
    have hcode : (c ++ ign ++ Const.magicWord).extractLsb' 48 16 = c := extractLsb'_append_first c ign Const.magicWord
    rw [decodeHdr_eq_badDimension_iff, hcode, decodeHdr_fields]
    refine ⟨⟨fun h => ?_, absurd hm⟩, (and_iff_right hm).symm⟩
    split_ifs at h
    cases h
  · rw [decodeHdr_badMagic hm]
    exact ⟨iff_of_true rfl hm, iff_of_false nofun fun h => hm h.1⟩

/-- Settles O6: each word is read by its own format's decoder. -/
theorem specWordsDecode : Obligations.SpecWordsDecode :=
  ⟨rfl, rfl, rfl, rfl, rfl, by decide, rfl⟩

end Sys2Proof

namespace Sys2Proof.Machine

/-! ### Which step happens -/

/-- Settles O8: the steps in the decoder's order, with their state conditions written out. -/
theorem whichStepHappens : Obligations.WhichStepHappens := by
  intro s
  simp only [stepOp_eq, inReady_iff, outValid_iff, padReady_iff]

/-- What the control inputs select and the state enables: the rows of F-EVT by the ports they match, each with its state
condition (R78). -/
theorem enabled_cases {s : State} {i : Instr} (hi : i ∈ decodeEvt (evtWord s.edge)) (he : stepEnabled s i = true) :
    (s.edge.rst = true ∧ i = .seqReset s.edge.inValid s.edge.outReady) ∨
    s.edge.rst = false ∧ (
      (s.edge.inValid = true ∧ inReady s = true ∧ i = .seqInbyte s.edge.outReady) ∨
      (s.edge.outReady = true ∧ outValid s = true ∧ i = .seqOutpix s.edge.inValid) ∨
      (padReady s = true ∧ i = .seqPadbyte s.edge.inValid s.edge.outReady)) := by
  rw [decodeEvt_evtWord, decodeEvtBits] at hi
  by_cases hr : s.edge.rst = true
  · rw [if_pos hr, List.mem_singleton] at hi
    exact .inl ⟨hr, hi⟩
  · rw [if_neg hr, List.mem_append, List.mem_append, List.mem_ite_nil_right, List.mem_ite_nil_right, List.mem_singleton,
      List.mem_singleton, List.mem_singleton] at hi
    refine .inr ⟨Bool.not_eq_true _ ▸ hr, ?_⟩
    obtain (⟨hv, rfl⟩ | ⟨ho, rfl⟩) | rfl := hi
    · exact .inl ⟨hv, he, rfl⟩
    · exact .inr (.inl ⟨ho, he, rfl⟩)
    · exact .inr (.inr ⟨he, rfl⟩)

/-- An operation that the ports match and the state enables is the one performed: the phases of the byte step, the pixel step
and the pad step differ, or EOF does (R171). -/
theorem stepOp_eq_some_of_enabled {s : State} {i : Instr} (hi : i ∈ decodeEvt (evtWord s.edge))
    (he : stepEnabled s i = true) : stepOp s = some i := by
  rw [stepOp_eq]
  obtain ⟨hr, rfl⟩ | ⟨hr, ⟨hv, hin, rfl⟩ | ⟨ho, hout, rfl⟩ | ⟨hpad, rfl⟩⟩ := enabled_cases hi he
  · exact if_pos hr
  · rw [if_neg (by simp [hr]), if_pos ⟨hv, hin⟩]
  · obtain ⟨hp, -⟩ := (outValid_iff s).1 hout
    have hin : inReady s = false := by simp [inReady, inPermitted, hp]
    rw [if_neg (by simp [hr]), if_neg (by simp [hin]), if_pos ⟨ho, hout⟩]
  · obtain ⟨hp, hend, -⟩ := (padReady_iff s).1 hpad
    have hin : inReady s = false := by simp [inReady, inPermitted, hend]
    have hout : outValid s = false := by simp [outValid, outPermitted, hp]
    rw [if_neg (by simp [hr]), if_neg (by simp [hin]), if_neg (by simp [hout]), if_pos hpad]

/-- Settles O9: two enabled operations are both the one performed. -/
theorem atMostOneStepIsEnabled : Obligations.AtMostOneStepIsEnabled := by
  intro s i j hi hj hei hej
  exact Option.some.inj ((stepOp_eq_some_of_enabled hi hei).symm.trans (stepOp_eq_some_of_enabled hj hej))

/-! ### Reserved bytes -/

/-- The state with the byte `d` on `in_data` at the coming edge, and the other ports as they are. -/
def State.offering (d : Byte) (s : State) : State := { s with edges := { s.edge with inData := d } :: s.edges.tail }

/-- Which step happens does not depend on `in_data`. -/
theorem stepOp_offering (d : Byte) (s : State) : stepOp (s.offering d) = stepOp s := by
  rw [stepOp_eq, stepOp_eq]
  rfl

/-- A byte step of HDR, as the step performs it. -/
theorem exec_seqInbyte_hdr {r : Bool} {s : State} (hp : s.phase = .hdr) (hin : inReady s = true) :
    exec (.seqInbyte r) s =
      andThen (headerPart s.hpos s.acceptByte.latchMode) fun t => .next (afterHeaderByte s.edge.inLast t) := by
  obtain ⟨-, he, hg⟩ := (inReady_iff s).1 hin
  exact execSeqInbyte_hdr (r := r) hp he hg

/-- A byte step of HDR at an offset beyond the header is refused (U18). -/
theorem hpos_le_of_exec_seqInbyte {r : Bool} {s t : State} (hp : s.phase = .hdr) (hin : inReady s = true)
    (h : exec (.seqInbyte r) s = .next t) : s.hpos.toNat ≤ 31 := by
  rw [exec_seqInbyte_hdr hp hin, andThen_eq_next] at h
  obtain ⟨u, hu, -⟩ := h
  by_contra hbeyond
  cases (headerPart_beyond (by omega) _).symm.trans hu

/-- The byte step at a reserved offset performs HV.SKIP: only what follows the header operation is left (R107, R162). -/
theorem exec_seqInbyte_reserved {r : Bool} {s : State} (hp : s.phase = .hdr) (hin : inReady s = true)
    (hpos : s.hpos.toNat = 4 ∨ s.hpos.toNat = 5 ∨ (8 ≤ s.hpos.toNat ∧ s.hpos.toNat ≤ 31)) :
    exec (.seqInbyte r) s = .next (afterHeaderByte s.edge.inLast s.acceptByte.latchMode) := by
  rw [exec_seqInbyte_hdr hp hin, headerPart_skip hpos, andThen_next]

/-- What follows the header operation does not read the record of the byte, nor the port it came from. -/
theorem tick_afterHeaderByte_record (l : Bool) (s : State) (e : Edge) (f : List Byte) (w : Wires) :
    (afterHeaderByte l { s with edges := e :: s.edges.tail, file := f, wires := w }).tick =
      { (afterHeaderByte l s).tick with file := f, wires := w } := by
  unfold afterHeaderByte
  split_ifs <;> rfl

/-- Settles O52: the step performed is the same; a reset reads no byte, and HV.SKIP discards the one it is given. -/
theorem reservedBytesHaveNoEffect : Obligations.ReservedBytesHaveNoEffect := by
  intro s e es d t hes hp hpos h
  have hoff : { s with edges := { e with inData := d } :: es } = s.offering d := by
    rw [State.offering, State.edge, hes]
    rfl
  rw [hoff]
  have hop := stepOp_eq s
  have hop' := stepOp_offering d s
  split_ifs at hop with hr hin hout hpad
  · cases (step_of_exec hop (exec_seqReset _ _ s)).symm.trans h
    exact ⟨_, step_of_exec (hop'.trans hop) (exec_seqReset _ _ _), rfl⟩
  · obtain ⟨u, hu, rfl⟩ := step_next_of_stepOp hop h
    have hle := hpos_le_of_exec_seqInbyte hp hin.2 hu
    have hres := hpos.imp_right (Or.imp_right (And.intro · hle))
    cases (exec_seqInbyte_reserved hp hin.2 hres).symm.trans hu
    have hu' := exec_seqInbyte_reserved (s := s.offering d) (r := s.edge.outReady) hp hin.2 hres
    have hrecord := tick_afterHeaderByte_record s.edge.inLast s.acceptByte.latchMode { s.edge with inData := d }
      (s.file ++ [d]) { s.wires with d := d }
    exact ⟨_, (step_of_exec (hop'.trans hop) hu').trans (congrArg Host.Outcome.next hrecord), rfl⟩
  · cases hp.symm.trans ((outValid_iff s).1 hout.2).1
  · cases hp.symm.trans ((padReady_iff s).1 hpad).1
  · cases (step_of_none hop).symm.trans h
    exact ⟨_, step_of_none (hop'.trans hop), rfl⟩

/-! ### Pixel words -/

/-- Settles O30: in opaque mode the word is alpha over the colour; in stencil mode the colour is compared with two constants. -/
theorem pixelWordsOfEachMode : Obligations.PixelWordsOfEachMode := by
  intro c
  refine ⟨BitVec.extractLsb'_append_eq_left, BitVec.extractLsb'_append_eq_right, ?_⟩
  rw [compPixel_stencil]
  split_ifs
  · exact .inl rfl
  · exact .inr (.inl rfl)
  · exact .inr (.inr rfl)

end Sys2Proof.Machine
end

section
/-! PROOFS of the family `40_header_validator.md`: what each operation of HV writes (R101 to R107), and the two traps that one
of them raises inside a byte step of HDR (R162, R181, R182). -/

namespace Sys2Proof.Machine

/-! ### HV.MAGIC -/

theorem magokNext_eq (m : Bool) (d : Byte) (p : BitVec 2) :
    magokNext m d p = (m && decide (d = [(0x50 : Byte), 0x49, 0x58, 0x42].getD p.toNat 0)) := by
  rw [magokNext, magic_getD, beq_eq_decide]

/-- The verdict of the last magic byte: this byte or an earlier one differed (R101). -/
theorem magokNext_three_eq_false {m : Bool} {d : Byte} : magokNext m d 3 = false ↔ m = false ∨ d ≠ 0x42 := by
  rw [magokNext_eq, Bool.and_eq_false_iff, decide_eq_false_iff_not]
  rfl

theorem execHvMagic_of_mismatch {s : State} (h : s.magok = false ∨ s.wires.d ≠ 0x42) :
    execHvMagic 3 s = .next ({ s with magok := false }.trapEntry .badMagic) :=
  if_pos ⟨rfl, magokNext_three_eq_false.2 h⟩

theorem execHvMagic_of_noTrap {p : BitVec 2} {s : State} (h : ¬ (p = 3 ∧ (s.magok = false ∨ s.wires.d ≠ 0x42))) :
    execHvMagic p s = .next { s with magok := magokNext s.magok s.wires.d p } := by
  refine if_neg ?_
  rintro ⟨rfl, hm⟩
  exact h ⟨rfl, magokNext_three_eq_false.1 hm⟩

/-- Settles O10: without the raise MAGOK takes the comparison with the magic byte of the offset. -/
theorem hvMagicUpdatesMagok : Obligations.HvMagicUpdatesMagok := by
  intro p s h
  rw [← magokNext_eq]
  exact execHvMagic_of_noTrap h

/-- Settles O11: the verdict at offset 3 is a mismatch, and the trap is entered. -/
theorem hvMagicRaisesBadMagic : Obligations.HvMagicRaisesBadMagic :=
  fun _ => execHvMagic_of_mismatch

/-! ### HV.DIMLO and HV.SKIP -/

/-- Settles O12: the printed row, and the one register that the operation writes. -/
theorem hvDimloLatchesTheLowByte : Obligations.HvDimloLatchesTheLowByte :=
  ⟨rfl, ⟨rfl, rfl⟩, fun _ => rfl⟩

/-- Settles O13: no other row of F-OFF takes these offsets, and the operation answers the state it is given. -/
theorem hvSkipDiscardsTheByte : Obligations.HvSkipDiscardsTheByte := by
  intro p s hp
  have hoff : p.toNat = 4 ∨ p.toNat = 5 ∨ (8 ≤ p.toNat ∧ p.toNat ≤ 31) :=
    hp.imp (congrArg BitVec.toNat) (Or.imp_left (congrArg BitVec.toNat))
  exact ⟨decodeOff_skip hoff, ⟨rfl, rfl⟩, rfl⟩

/-! ### The dimension code -/

/-- Settles O14: the printed rows, and the entry of DIMTAB that each operation writes. -/
theorem hvDimWritesItsProfile : Obligations.HvDimWritesItsProfile :=
  fun _ _ => ⟨⟨rfl, rfl⟩, ⟨rfl, rfl⟩, ⟨rfl, rfl⟩, rfl, rfl, rfl⟩

/-- HV.DIMHI by the unsigned code: the signed one of R103 is 0, 1 or 2 at the same two bytes. -/
theorem execHvDimhi_code (s : State) : execHvDimhi s = .next (
    if 256 * s.wires.d.toNat + s.dimlo.toNat = 0 then s.setProfile Const.dim0
    else if 256 * s.wires.d.toNat + s.dimlo.toNat = 1 then s.setProfile Const.dim1
    else if 256 * s.wires.d.toNat + s.dimlo.toNat = 2 then s.setProfile Const.dim2
    else s.trapEntry .badDimension) := by
  rw [execHvDimhi_eq, profileOf_code16]
  split_ifs <;> rfl

theorem execHvDimhi_of_illegal {s : State} (h : 2 < 256 * s.wires.d.toNat + s.dimlo.toNat) :
    execHvDimhi s = .next (s.trapEntry .badDimension) := by
  rw [execHvDimhi_code, if_neg (by omega), if_neg (by omega), if_neg (by omega)]

/-- Settles O15: each branch of the code writes its entry of DIMTAB, and the last one enters the trap. -/
theorem hvDimhiSelectsByTheCode : Obligations.HvDimhiSelectsByTheCode :=
  ⟨rfl, ⟨rfl, rfl⟩, execHvDimhi_code⟩

/-! ### The traps inside a byte step -/

/-- MODE is latched with file offset 0 only (R27). -/
theorem latchMode_of_hpos_ne_zero {s : State} (h : s.hpos ≠ 0) : s.latchMode = s := by
  rw [State.latchMode, if_neg h]

/-- A trap of the header operation ends the byte step, whether or not the byte is the last of the file (R108, R185). -/
theorem execSeqInbyte_of_headerTrap {r : Bool} {s t : State} (hp : s.phase = .hdr) (he : s.eof = false)
    (hg : s.edge.go = true) (hpos : s.hpos ≠ 0) (ht : headerPart s.hpos s.acceptByte = .next t) (herr : t.phase = .err) :
    execSeqInbyte r s = .next t := by
  rw [execSeqInbyte_hdr hp he hg, latchMode_of_hpos_ne_zero (s := s.acceptByte) hpos, ht, andThen_next,
    afterHeaderByte_trapped herr]

/-- Settles O38: the header operation of offset 3 traps on the byte accepted, and the byte step ends there. -/
theorem headerTrapsBadMagic : Obligations.HeaderTrapsBadMagic := by
  intro r s hp he hg h3 hm
  have ht : headerPart s.hpos s.acceptByte = .next ({ s.acceptByte with magok := false }.trapEntry .badMagic) := by
    rw [h3]
    exact execHvMagic_of_mismatch hm
  exact execSeqInbyte_of_headerTrap (r := r) hp he hg (by simp [h3]) ht rfl

/-- Settles O39: the header operation of offset 7 traps on the code, and the byte step ends there. -/
theorem headerTrapsBadDimension : Obligations.HeaderTrapsBadDimension := by
  intro r s hp he hg h7 hcode
  have ht : headerPart s.hpos s.acceptByte = .next (s.acceptByte.trapEntry .badDimension) := by
    rw [h7]
    exact execHvDimhi_of_illegal hcode
  exact execSeqInbyte_of_headerTrap (r := r) hp he hg (by simp [h7]) ht rfl

end Sys2Proof.Machine
end

section
/-! PROOFS of the family `41_unpacker.md`: what a byte does to the unpacker (R121), where a group's lanes are stored (R123),
and that the lanes hold every bit of the group (R124). -/

namespace Sys2Proof.Machine

/-! ### UNP.LOAD and UNP.EXPAND -/

/-- What the unpacker does is what R121, R123 and R124 say of the byte: the lanes stored are the fields of the group. -/
theorem BodyTo.loadsByte {s t : State} (h : BodyTo s t) (hw : Memory.wf s.idxbuf = true) : LoadsByte s.wires.d s t := by
  cases h with
  | early hi hg =>
    refine ⟨fun k => ?_, ?_⟩
    · simp [Vector.getElem_setIfInBounds, eq_comm]
    · rw [if_neg (show ¬ s.gcnt.toNat = 6 by omega)]
      exact ⟨rfl, rfl, rfl, rfl⟩
  | last hi hg =>
    obtain ⟨-, hin, hout⟩ := bufStore_lanes hw hi (expandLanes s.b[0] s.b[1] s.b[2] s.b[3] s.b[4] s.b[5] s.wires.d)
    refine ⟨fun k => ?_, ?_⟩
    · simp [hg, Vector.getElem_set, eq_comm]
    · rw [if_pos (show s.gcnt.toNat = 6 by rw [hg]; rfl)]
      exact ⟨rfl, rfl, rfl, fun k => (hin k).trans (lanesAreTheFieldsOfTheGroup ..), hout⟩

/-- Settles O16: UNP.LOAD at GCNT is the unpacker's part of a byte step. -/
theorem unpLoadTakesTheByte : Obligations.UnpLoadTakesTheByte := by
  intro s hg hi hw
  obtain ⟨t, ht, hto⟩ := bodyPart_answers hi hg
  exact ⟨t, (bodyPart_load hg).symm.trans ht, hto.loadsByte hw, hto.frame⟩

/-- Settles O17: the operation is one store of eight lanes. -/
theorem unpExpandStoresTheLanes : Obligations.UnpExpandStoresTheLanes := by
  intro s hi hw
  obtain ⟨-, hin, hout⟩ := bufStore_lanes hw hi (expandLanes s.b[0] s.b[1] s.b[2] s.b[3] s.b[4] s.b[5] s.wires.d)
  exact ⟨_, execUnpExpand_eq hi, rfl, hin, hout⟩

/-! ### The lanes of a group -/

/-- The eight fields cover the group: its bit `i` is bit `i mod 7` of field `i div 7` (R124). -/
theorem eq_of_laneField_eq {g g' : BitVec 56} (h : ∀ k : Fin 8, laneField g k.val = laneField g' k.val) : g = g' := by
  refine BitVec.eq_of_getLsbD_eq fun i hi => ?_
  have hbit := congrArg (·.getLsbD (i % 7)) (h ⟨i / 7, by omega⟩)
  have hlt : i % 7 < 7 := Nat.mod_lt i (by decide)
  simpa only [laneField_getLsbD, Nat.div_add_mod, hlt, decide_true, Bool.true_and] using hbit

/-- The bytes of a group are determined by its word (R72). -/
theorem groupWord_inj {b0 b1 b2 b3 b4 b5 b6 c0 c1 c2 c3 c4 c5 c6 : Byte}
    (h : groupWord b0 b1 b2 b3 b4 b5 b6 = groupWord c0 c1 c2 c3 c4 c5 c6) :
    b0 = c0 ∧ b1 = c1 ∧ b2 = c2 ∧ b3 = c3 ∧ b4 = c4 ∧ b5 = c5 ∧ b6 = c6 := by
  have hbyte (k : Fin 8) : #v[b0, b1, b2, b3, b4, b5, b6, 0#8][k] = #v[c0, c1, c2, c3, c4, c5, c6, 0#8][k] := by
    rw [← groupWord_byte, h, groupWord_byte]
  exact ⟨hbyte 0, hbyte 1, hbyte 2, hbyte 3, hbyte 4, hbyte 5, hbyte 6⟩

/-- Settles O19: the same lanes are the same fields, hence the same group word, hence the same bytes. -/
theorem lanesLoseNoBit : Obligations.LanesLoseNoBit := by
  refine ⟨expandLanes_lt, fun b0 b1 b2 b3 b4 b5 b6 c0 c1 c2 c3 c4 c5 c6 hlanes => ?_⟩
  refine groupWord_inj (eq_of_laneField_eq fun k => ?_)
  rw [← lanesAreTheFieldsOfTheGroup, ← lanesAreTheFieldsOfTheGroup, hlanes]

end Sys2Proof.Machine
end

section
/-! PROOFS of the family `42_address_decoder.md`: the address of a raster position is its row over its column in the 32-wide grid
(R131), so that it stays in the window and determines the position (R132, R133); and the raster is traversed in row-major order
(R134). -/

namespace Sys2Proof.Machine

/-! ### The address as row over column -/

section Grid

variable {k : BitVec 4} {y x : BitVec 5}

/-- The row of an address: nothing is carried from the column (R131). -/
theorem mapAddr_div (hx : k.toNat + x.toNat < 32) : mapAddr k y x / 32 = k.toNat + y.toNat := by
  rw [mapAddr_eq]
  omega

theorem mapAddr_mod (hx : k.toNat + x.toNat < 32) : mapAddr k y x % 32 = k.toNat + x.toNat := by
  rw [mapAddr_eq]
  omega

theorem mapAddr_lt (hx : k.toNat + x.toNat < 32) (hy : k.toNat + y.toNat < 32) : mapAddr k y x < 1024 := by
  rw [mapAddr_eq]
  omega

/-- A 5-bit coordinate of the grid does not wrap (R132). -/
theorem gridCoord_toNat (hx : k.toNat + x.toNat < 32) : (k.setWidth 5 + x).toNat = k.toNat + x.toNat := by
  rw [BitVec.toNat_add, BitVec.toNat_setWidth_of_le (by decide), Nat.mod_eq_of_lt hx]

/-- The form without multiplier is the address (R80 d, R131). -/
theorem mapConcat_toNat (hx : k.toNat + x.toNat < 32) (hy : k.toNat + y.toNat < 32) :
    (mapConcat k y x).toNat = mapAddr k y x := by
  rw [mapConcat, BitVec.toNat_append, gridCoord_toNat hx, gridCoord_toNat hy, ← Nat.shiftLeft_add_eq_or_of_lt hx,
    Nat.shiftLeft_eq, mapAddr_eq]
  omega

end Grid

/-- Where ADEC.MAP answers (the converse of `execAdecMap_next`), it drives the address and its entry. -/
theorem execAdecMap_eq {k : BitVec 4} {v : BitVec 6} {y x : BitVec 5} (hl : Const.legalProfile v k = true)
    (ha : mapAddr k y x < 1024) (s : State) :
    execAdecMap k v y x s = .next (s.driveMap (BitVec.ofNat 10 (mapAddr k y x)) (bufGet s.idxbuf (mapAddr k y x))) := by
  have hread : idxbufRead s.idxbuf (mapAddr k y x) = some (bufGet s.idxbuf (mapAddr k y x)) := if_pos ha
  rw [execAdecMap, if_pos hl, hread]

/-- Settles O21: the window of a legal profile ends inside the grid, so the address is the one of `mapConcat`. -/
theorem adecMapReadsTheEntry : Obligations.AdecMapReadsTheEntry := by
  intro k v y x s hl hx hy
  obtain ⟨-, -, hfit⟩ := legalProfile_bounds hl
  have hcol : k.toNat + x.toNat < 32 := by omega
  have hrow : k.toNat + y.toNat < 32 := by omega
  have haddr : BitVec.ofNat 10 (mapAddr k y x) = mapConcat k y x := by
    rw [← mapConcat_toNat hcol hrow, BitVec.ofNat_toNat, BitVec.setWidth_eq]
  refine (execAdecMap_eq hl (mapAddr_lt hcol hrow) s).trans ?_
  rw [haddr]
  rfl

/-- Settles O22: the row and the column of the address give the window, and give back the position. -/
theorem adecMapIsInRangeAndInjective : Obligations.AdecMapIsInRangeAndInjective := by
  intro k v y x y' x' hl hx hy hx' hy'
  obtain ⟨-, -, hfit⟩ := legalProfile_bounds hl
  have hcol : k.toNat + x.toNat < 32 := by omega
  have hcol' : k.toNat + x'.toNat < 32 := by omega
  have hrow : k.toNat + y.toNat < 32 := by omega
  refine ⟨?_, ?_, ?_, ?_, mapAddr_lt hcol hrow, fun heq => ?_⟩
  · rw [mapAddr_div hcol]
    omega
  · rw [mapAddr_mod hcol]
    omega
  · rw [mapAddr_eq]
    omega
  · rw [mapAddr_eq]
    omega
  · have hdiv := congrArg (· / 32) heq
    have hmod := congrArg (· % 32) heq
    simp only [mapAddr_div hcol, mapAddr_div hcol'] at hdiv
    simp only [mapAddr_mod hcol, mapAddr_mod hcol'] at hmod
    exact ⟨BitVec.eq_of_toNat_eq (by omega), BitVec.eq_of_toNat_eq (by omega)⟩

/-- Settles O23: the last position of the raster has the greatest address, 33 (SKIP + VSIZE - 1) (R133). -/
theorem profileFitsExactlyWhenWithin32 : Obligations.ProfileFitsExactlyWhenWithin32 := by
  intro k v hv1 hv32
  constructor
  · intro hrange
    obtain ⟨c, hlast⟩ : ∃ c : BitVec 5, c.toNat = v.toNat - 1 := ⟨.ofNatLT (v.toNat - 1) (by omega), rfl⟩
    have hcorner := hrange c c (by omega) (by omega)
    rw [mapAddr_eq, hlast] at hcorner
    omega
  · intro hfit y x hx hy
    exact mapAddr_lt (by omega) (by omega)

/-! ### The raster in row-major order -/

/-- Only the last position has the last raster number (R134, R135). -/
theorem rasterNumber_last_iff {v y x : Nat} (hx : x < v) (hy : y < v) :
    y * v + x + 1 = v * v ↔ x + 1 = v ∧ y + 1 = v := by
  have hrows : (y + 1) * v ≤ v * v := Nat.mul_le_mul_right v hy
  have hsucc : (y + 1) * v = y * v + v := Nat.succ_mul y v
  constructor
  · intro h
    have hfull : (y + 1) * v = v * v := by omega
    exact ⟨by omega, Nat.eq_of_mul_eq_mul_right (Nat.zero_lt_of_lt hx) hfull⟩
  · rintro ⟨hxv, hyv⟩
    rw [hyv] at hsucc
    omega

section NextPosition

variable {v : BitVec 6} {s t : State}

/-- After the last position the raster is over. -/
theorem PositionTo.of_last (h : PositionTo v s.y s.x s t) (hx : s.x.toNat + 1 = v.toNat) (hy : s.y.toNat + 1 = v.toNat) :
    t.x = 0 ∧ t.y = 0 ∧ t.phase = .done := by
  cases h with
  | column hne => exact absurd hx hne
  | row _ hne => exact absurd hy hne
  | done => exact ⟨rfl, rfl, rfl⟩

/-- Before it the raster number rises by one, and the position stays in the raster. -/
theorem PositionTo.rasterNumber_succ (h : PositionTo v s.y s.x s t) (hv : v.toNat ≤ 32) (hx : s.x.toNat < v.toNat)
    (hy : s.y.toNat < v.toNat) (hlast : ¬ (s.x.toNat + 1 = v.toNat ∧ s.y.toNat + 1 = v.toNat)) :
    t.y.toNat * v.toNat + t.x.toNat = s.y.toNat * v.toNat + s.x.toNat + 1 ∧ t.x.toNat < v.toNat ∧
      t.y.toNat < v.toNat ∧ t.phase = s.phase := by
  cases h with
  | column hne =>
    have hcol : (s.x + 1).toNat = s.x.toNat + 1 := coord_succ (by omega) hv
    exact ⟨by simp only [hcol]; omega, by simp only [hcol]; omega, hy, rfl⟩
  | row hend hne =>
    have hrow : (s.y + 1).toNat = s.y.toNat + 1 := coord_succ (by omega) hv
    refine ⟨?_, Nat.zero_lt_of_lt hx, by simp only [hrow]; omega, rfl⟩
    calc (s.y + 1).toNat * v.toNat + 0 = s.y.toNat * v.toNat + v.toNat := by rw [hrow, Nat.succ_mul, Nat.add_zero]
      _ = s.y.toNat * v.toNat + s.x.toNat + 1 := by omega
  | done hx' hy' => exact absurd ⟨hx', hy'⟩ hlast

end NextPosition

/-- Settles O24: the raster number of the position says which branch of ADEC.NEXT is taken. -/
theorem adecNextIsRowMajor : Obligations.AdecNextIsRowMajor := by
  rintro k v _ _ s hl hx hy rfl rfl
  obtain ⟨-, hv, -⟩ := legalProfile_bounds hl
  obtain ⟨t, ht, hto⟩ := execAdecNext_answers hl s.y s.x s
  refine ⟨t, ht, hto.frame, ?_⟩
  split_ifs with hnumber
  · obtain ⟨hxlast, hylast⟩ := (rasterNumber_last_iff hx hy).1 hnumber
    exact hto.of_last hxlast hylast
  · exact hto.rasterNumber_succ hv hx hy fun hlast => hnumber ((rasterNumber_last_iff hx hy).2 hlast)

end Sys2Proof.Machine
end

section
/-! PROOFS of the family `43_palette_rom.md`: what each palette row drives (R141 to R144), and that the row of any index byte
drives PAL of that byte (R140). -/

namespace Sys2Proof.Machine

/-! ### The index that a ROM row reads -/

theorem romLo_address (i : BitVec 6) : (0b00#2 ++ i : BitVec 8).toNat = i.toNat := by
  rw [BitVec.toNat_append, ← Nat.shiftLeft_add_eq_or_of_lt i.isLt]
  exact Nat.zero_add _

/-- The three bits of the row put 64 before the operand (R142). -/
theorem romHi_address (i : BitVec 5) : (0b010#3 ++ i : BitVec 8).toNat = 64 + i.toNat := by
  rw [BitVec.toNat_append, ← Nat.shiftLeft_add_eq_or_of_lt i.isLt]
  rfl

theorem execPalRomLo_eq (i : BitVec 6) (s : State) : execPalRomLo i s = .next (s.driveRgb (Const.palette i.toNat)) := by
  rw [execPalRomLo, romRead, romLo_address]

theorem execPalRomHi_eq (i : BitVec 5) (s : State) :
    execPalRomHi i s = .next (s.driveRgb (Const.palette (64 + i.toNat))) := by
  rw [execPalRomHi, romRead, romHi_address]

/-- Settles O25: the ROM rows read the ROM at their index, the white rows do not depend on it. -/
theorem paletteRowResults : Obligations.PaletteRowResults := by
  intro s
  exact ⟨fun i => execPalRomLo_eq i s, fun i => execPalRomHi_eq i s, fun _ => rfl, fun _ => rfl⟩

/-! ### PAL of an index byte -/

/-- The row that an index selects, performed alone, is the palette's part of a pixel: the decoder answers palette rows only
(R73, R81). -/
theorem exec_decodeIdx (idx : Byte) (s : State) : exec (decodeIdx idx) s = palPart idx s := by
  unfold palPart
  rw [decodeIdx_eq]
  split_ifs <;> rfl

theorem palColour_eq (idx : Byte) :
    palColour idx = if idx.toNat < 96 then Const.palette idx.toNat else 0xFFFFFF := rfl

/-- Settles O26: whatever row the index selects drives PAL of the index. -/
theorem paletteIsTotal : Obligations.PaletteIsTotal := by
  intro idx s
  calc exec (decodeIdx idx) s = palPart idx s := exec_decodeIdx idx s
    _ = .next (s.driveRgb (palColour idx)) := palPart_eq idx s
    _ = .next (s.driveRgb (if idx.toNat < 96 then Const.palette idx.toNat else 0xFFFFFF)) := by rw [palColour_eq]

end Sys2Proof.Machine
end


section
/-! PROOFS of the family `44_composer.md`: what each composer row drives (R151 to R154), and that the row of any mode and
colour drives COMP of them (R150). -/

namespace Sys2Proof.Machine

/-! ### The composer rows -/

/-- Alpha over the colour, as R151 writes it: the colour or-ed into the black word. -/
theorem opaquePixel_eq_or (c : Rgb) : opaquePixel c = 0xFF000000 ||| c.setWidth 32 := by
  rw [opaquePixel, BitVec.append_def, BitVec.setWidth'_eq]
  rfl

/-- Settles O28: opaque mode or-s the colour into the black word, the stencil rows do not depend on it. -/
theorem composerRowResults : Obligations.ComposerRowResults := by
  intro s
  refine ⟨fun c => ?_, rfl, rfl, fun _ => rfl⟩
  rw [← opaquePixel_eq_or]
  rfl

/-! ### COMP of a mode and a colour -/

/-- The row that an F-CMP word selects, performed alone, is the composer's part of a pixel: the decoder answers composer
rows only (R76, R81). -/
theorem exec_decodeCmp (w : BitVec 25) (s : State) : exec (decodeCmp w) s = compPart w s := by
  unfold compPart decodeCmp
  split_ifs <;> rfl

/-- COMP with the two stencil constants and the four words of R151 to R154 written out. -/
theorem compPixel_eq (m : Mode) (c : Rgb) : compPixel m c =
    if m = .opaqueMode then 0xFF#8 ++ c
    else if c = 0x211E1F then 0xFF000000
    else if c = 0xFFFFFF then 0xFFFFFFFF
    else 0x00000000 := by
  cases m with
  | opaqueMode => rfl
  | stencilMode => exact compPixel_stencil c

/-- Settles O29: whatever row the mode and the colour select drives COMP of them. -/
theorem composerIsTotal : Obligations.ComposerIsTotal := by
  intro m c s
  rw [← compPixel_eq]
  calc exec (decodeCmp (cmpWord m c)) s = compPart (cmpWord m c) s := exec_decodeCmp _ s
    _ = .next (s.drivePix (compPixel m c)) := compPart_eq m c s

end Sys2Proof.Machine
end

section
/-! PROOFS of the family `45_sequencer.md`: the four steps with and without their enabling condition (R160 to R166), the
transition table of PHASE (R170), and that every step keeps the registers what the bytes delivered so far make them, so
that a frame ends as the whole-frame function says (R169). -/

namespace Sys2Proof.Machine

/-! ### Reset, and steps that are not enabled -/

/-- Settles O31: reset is the first row of F-EVT and needs no state condition; its transfers move to the record of earlier
frames. -/
theorem resetWritesEveryRegister : Obligations.ResetWritesEveryRegister := by
  refine ⟨fun s hr => (stepOp_eq s).trans (if_pos hr), fun v r s => ⟨s.afterReset, exec_seqReset v r s, ?_⟩⟩
  exact ⟨rfl, rfl, rfl, rfl, rfl, rfl, rfl, rfl, rfl, rfl, rfl, rfl, rfl, rfl, rfl, rfl, List.append_nil _⟩

theorem execSeqInbyte_disabled {r : Bool} {s : State} (h : ¬ inReady s = true) : execSeqInbyte r s = .next s := if_neg h

theorem execSeqPadbyte_disabled {v r : Bool} {s : State} (h : ¬ padReady s = true) : execSeqPadbyte v r s = .next s :=
  if_neg h

theorem execSeqOutpix_disabled {v : Bool} {s : State} (h : ¬ outValid s = true) : execSeqOutpix v s = .next s := if_neg h

/-- Settles O44: each of the conditions named refutes a conjunct of the step's enabling condition. -/
theorem disabledStepsHaveNoEffect : Obligations.DisabledStepsHaveNoEffect := by
  intro v r s
  refine ⟨fun h => execSeqInbyte_disabled (r := r) ?_, fun h => execSeqPadbyte_disabled (v := v) (r := r) ?_,
    fun h => execSeqOutpix_disabled (v := v) ?_⟩
  · rw [inReady_iff]
    rintro ⟨hp, he, hg⟩
    obtain ⟨hhdr, hbody⟩ | he' | hg' := h
    · exact hp.elim hhdr hbody
    · simp [he] at he'
    · simp [hg] at hg'
  · rw [padReady_iff]
    rintro ⟨hp, he, hg⟩
    obtain hp' | he' | hg' := h
    · exact hp' hp
    · simp [he] at he'
    · simp [hg] at hg'
  · rw [outValid_iff]
    rintro ⟨hp, hg⟩
    obtain hp' | hg' := h
    · exact hp' hp
    · simp [hg] at hg'

/-! ### A header byte -/

/-- The header operation leaves the offset to the byte step (R108). -/
theorem HeaderTo.hpos_eq {p : BitVec 6} {s u : State} (hu : HeaderTo p s u) : u.hpos = s.hpos :=
  (congrArg State.hpos hu.frame :)

section HeaderByte

variable {r : Bool} {s t : State} (hp : s.phase = .hdr) (he : s.eof = false) (hg : s.edge.go = true)
  (ht : headerPart s.hpos s.acceptByte.latchMode = .next t) (hpt : t.phase = .hdr)
include hp he hg ht

/-- A byte step of HDR whose header operation answers `t` (R162). -/
theorem exec_seqInbyte_of_headerPart : exec (.seqInbyte r) s = .next (afterHeaderByte s.edge.inLast t) := by
  rw [exec_seqInbyte_hdr hp ((inReady_iff s).2 ⟨.inl hp, he, hg⟩), ht, andThen_next]

include hpt

/-- The file goes on after a header byte without a trap. -/
theorem exec_seqInbyte_hdr_more (hl : s.edge.inLast = false) : exec (.seqInbyte r) s = .next { t with
    hpos := s.hpos + 1, phase := if s.hpos.toNat + 1 = 32 then .body else .hdr } := by
  have hpos : t.hpos = s.hpos := (HeaderTo.of_next ht).hpos_eq
  rw [exec_seqInbyte_of_headerPart hp he hg ht, hl, afterHeaderByte_more hpt, hpos]

/-- The file ends with a whole header (R162 c). -/
theorem exec_seqInbyte_hdr_ended (hl : s.edge.inLast = true) (h7 : 7 ≤ s.hpos.toNat) :
    exec (.seqInbyte r) s = .next { t with eof := true, hpos := 32, phase := .body } := by
  have hpos : t.hpos = s.hpos := (HeaderTo.of_next ht).hpos_eq
  rw [exec_seqInbyte_of_headerPart hp he hg ht, hl, afterHeaderByte_ended hpt (hpos ▸ h7)]

/-- The file ends before the header is whole (R162 d). -/
theorem exec_seqInbyte_hdr_truncated (hl : s.edge.inLast = true) (h6 : s.hpos.toNat ≤ 6) :
    exec (.seqInbyte r) s = .next (t.trapEntry .truncatedHeader) := by
  have hpos : t.hpos = s.hpos := (HeaderTo.of_next ht).hpos_eq
  rw [exec_seqInbyte_of_headerPart hp he hg ht, hl, afterHeaderByte_truncated hpt (hpos ▸ h6)]

end HeaderByte

/-! ### The header operation of a byte step, by its offset -/

/-- HV.MAGIC, where it does not trap (R101). -/
theorem headerPart_magic_noTrap {s : State} {p : BitVec 6} (h3 : p.toNat ≤ 3)
    (hm : p = 3 → s.magok = true ∧ s.wires.d = 0x42) :
    headerPart p s = .next { s with
      magok := s.magok && decide (s.wires.d = [(0x50 : Byte), 0x49, 0x58, 0x42].getD p.toNat 0) } := by
  have hnoTrap : ¬ (p.extractLsb' 0 2 = 3 ∧ (s.magok = false ∨ s.wires.d ≠ 0x42)) := by
    rintro ⟨hlast, hbad⟩
    obtain ⟨hok, hd⟩ := hm ((magicOffset_three h3).1 hlast)
    simp [hok, hd] at hbad
  rw [headerPart_magic (by omega), execHvMagic_of_noTrap hnoTrap, magokNext_eq, magicOffset_toNat h3]

/-- HV.DIMHI of a legal code (R103 to R106): the high byte is zero, and DIMLO alone selects the profile. -/
theorem execHvDimhi_of_legal {s : State} (h : 256 * s.wires.d.toNat + s.dimlo.toNat ≤ 2) : execHvDimhi s = .next { s with
    vsize := if s.dimlo = 0 then 16 else if s.dimlo = 1 then 24 else 32
    skip := if s.dimlo = 0 then 8 else if s.dimlo = 1 then 4 else 0 } := by
  have h0 : 256 * s.wires.d.toNat + s.dimlo.toNat = 0 ↔ s.dimlo = 0 := by bv_omega
  have h1 : 256 * s.wires.d.toNat + s.dimlo.toNat = 1 ↔ s.dimlo = 1 := by bv_omega
  simp only [execHvDimhi_code, h0, h1]
  split_ifs
  · rfl
  · rfl
  · rfl
  · bv_omega

section Offset

variable {s : State}

theorem headerPart_latchMode_dimlo (h6 : s.hpos = 6) :
    headerPart s.hpos s.acceptByte.latchMode = .next { s.acceptByte with dimlo := s.edge.inData } := by
  rw [latchMode_of_hpos_ne_zero (s := s.acceptByte) (by simp [h6]), h6]
  rfl

theorem headerPart_latchMode_dimhi (h7 : s.hpos = 7) (hcode : 256 * s.edge.inData.toNat + s.dimlo.toNat ≤ 2) :
    headerPart s.hpos s.acceptByte.latchMode = .next { s.acceptByte with
      vsize := if s.dimlo = 0 then 16 else if s.dimlo = 1 then 24 else 32
      skip := if s.dimlo = 0 then 8 else if s.dimlo = 1 then 4 else 0 } := by
  rw [latchMode_of_hpos_ne_zero (s := s.acceptByte) (by simp [h7]), h7]
  exact execHvDimhi_of_legal hcode

theorem headerPart_latchMode_skip
    (hpos : s.hpos.toNat = 4 ∨ s.hpos.toNat = 5 ∨ (8 ≤ s.hpos.toNat ∧ s.hpos.toNat ≤ 31)) :
    headerPart s.hpos s.acceptByte.latchMode = .next s.acceptByte := by
  have h0 : s.hpos ≠ 0 := fun h => by simp [h] at hpos
  rw [headerPart_skip hpos, latchMode_of_hpos_ne_zero (s := s.acceptByte) h0]

end Offset

/-! ### Header bytes -/

/-- Settles O34: without a trap the file goes on, and the offset is not the last of the header. -/
theorem headerTakesAMagicByte : Obligations.HeaderTakesAMagicByte := by
  intro r s hp he hg hl h3 hm
  rw [exec_seqInbyte_hdr_more hp he hg (headerPart_magic_noTrap h3 hm) hp hl, if_neg (by omega), hp]
  rfl

/-- Settles O35: HV.DIMLO at offset 6 and HV.SKIP elsewhere, and the file goes on. -/
theorem headerTakesAnIgnoredOrLowByte : Obligations.HeaderTakesAnIgnoredOrLowByte := by
  intro r s hp he hg hl hpos
  have h31 : s.hpos.toNat + 1 = 32 ↔ s.hpos = 31 := by bv_omega
  simp only [← h31]
  by_cases h6 : s.hpos = 6
  · rw [if_pos h6]
    exact exec_seqInbyte_hdr_more hp he hg (headerPart_latchMode_dimlo h6) hp hl
  · rw [if_neg h6]
    exact exec_seqInbyte_hdr_more hp he hg (headerPart_latchMode_skip (by bv_omega)) hp hl

/-- Settles O36: HV.DIMHI writes the profile, and then the file goes on or ends with a whole header. -/
theorem headerTakesTheHighByte : Obligations.HeaderTakesTheHighByte := by
  intro r s hp he hg h7 hcode
  have ht := headerPart_latchMode_dimhi h7 hcode
  cases hl : s.edge.inLast with
  | false =>
    rw [exec_seqInbyte_hdr_more hp he hg ht hp hl, h7]
    simp only [State.acceptByte_eof, he]
    rfl
  | true => exact exec_seqInbyte_hdr_ended hp he hg ht hp hl (by simp [h7])

/-- Settles O37: HV.SKIP writes nothing, and the file ends with a whole header. -/
theorem headerEndsInTheReservedSpan : Obligations.HeaderEndsInTheReservedSpan := by
  intro r s hp he hg hl h8 h31
  exact exec_seqInbyte_hdr_ended hp he hg (headerPart_latchMode_skip (.inr (.inr ⟨h8, h31⟩))) hp hl (by omega)

/-- Settles O40: the header operation of the offset does not trap, and then the file ends before the header is whole. -/
theorem headerTrapsTruncated : Obligations.HeaderTrapsTruncated := by
  intro r s hp he hg hl h6 hm
  by_cases h3 : s.hpos.toNat ≤ 3
  · have hne : s.hpos ≠ 6 := fun h => by simp [h] at h3
    rw [if_pos h3, if_neg hne]
    exact exec_seqInbyte_hdr_truncated hp he hg (headerPart_magic_noTrap h3 hm) hp hl h6
  · have h0 : s.hpos ≠ 0 := fun h => by simp [h] at h3
    rw [if_neg h3, if_neg h0]
    by_cases hlow : s.hpos = 6
    · rw [if_pos hlow]
      exact exec_seqInbyte_hdr_truncated hp he hg (headerPart_latchMode_dimlo hlow) hp hl h6
    · rw [if_neg hlow]
      exact exec_seqInbyte_hdr_truncated hp he hg (headerPart_latchMode_skip (by bv_omega)) hp hl h6

/-! ### Body bytes -/

/-- Settles O41: the unpacker takes the byte accepted, and EOF was 0. -/
theorem bodyTakesAByte : Obligations.BodyTakesAByte := by
  intro r s hp he hg hcnt hidx hw
  obtain ⟨u, hu, hto⟩ := bodyPart_answers (s := s.acceptByte) hidx hcnt
  have heof : u.eof = false := (congrArg State.eof hto.frame :).trans he
  have ht : exec (.seqInbyte r) s = .next { u with eof := u.eof || s.edge.inLast } := by
    refine (execSeqInbyte_body (r := r) hp he hg).trans ?_
    rw [hu, andThen_next]
  refine ⟨_, ht, hto.loadsByte hw, ?_⟩
  rw [heof]
  exact congrArg (fun t : State => { t with eof := s.edge.inLast }) hto.frame

/-- Settles O42: the unpacker takes 0x00 in place of a byte accepted. -/
theorem paddingTakesAZeroByte : Obligations.PaddingTakesAZeroByte := by
  intro v r s hp he hg hcnt hidx hw
  obtain ⟨u, hu, hto⟩ := bodyPart_answers (s := s.withByte 0) hidx hcnt
  have ht : exec (.seqPadbyte v r) s = .next { u with short := true } := by
    refine (execSeqPadbyte_enabled (v := v) (r := r) hp he hg).trans ?_
    rw [hu, andThen_next]
  exact ⟨_, ht, hto.loadsByte hw, congrArg (fun t : State => { t with short := true }) hto.frame⟩

/-! ### Pixels -/

theorem lastPosition_eq_decide (v : BitVec 6) (y x : BitVec 5) :
    lastPosition v y x = decide (x.toNat + 1 = v.toNat ∧ y.toNat + 1 = v.toNat) := by
  rw [Bool.eq_iff_iff, lastPosition_iff, decide_eq_true_iff]

/-- Settles O43: the pixel of the position is transferred, and ADEC.NEXT is one of its three cases. -/
theorem outpixTransfersThePixel : Obligations.OutpixTransfersThePixel := by
  intro v s hp hg hl hx hy
  obtain ⟨-, -, hfit⟩ := legalProfile_bounds hl
  have haddr : mapAddr s.skip s.y s.x < 1024 := mapAddr_lt (by omega) (by omega)
  obtain ⟨t, ht, hto⟩ := execSeqOutpix_answers (i := v) ((outValid_iff s).2 ⟨hp, hg⟩) hl haddr
  have hxlast : s.x.toNat = s.vsize.toNat - 1 ↔ s.x.toNat + 1 = s.vsize.toNat := by omega
  have hylast : s.y.toNat = s.vsize.toNat - 1 ↔ s.y.toNat + 1 = s.vsize.toNat := by omega
  simp only [hxlast, hylast, ne_eq, ← lastPosition_eq_decide]
  refine ⟨t, ht, (congrArg State.pixels hto.frame :), ?_, ?_⟩
  · cases hto <;> rfl
  · cases hto with
    | column h => rw [if_pos h]; exact ⟨rfl, rfl, hp⟩
    | row h h' => rw [if_neg (not_not.2 h), if_pos h']; exact ⟨rfl, rfl, hp⟩
    | done h h' => rw [if_neg (not_not.2 h), if_neg (not_not.2 h')]; exact ⟨rfl, rfl, rfl⟩

/-! ### The transition table -/

theorem HeaderTo.phase_cases {p : BitVec 6} {s u : State} (hu : HeaderTo p s u) :
    u.phase = s.phase ∨ (u.phase = .err ∧ (p = 3 ∨ p = 7)) := by
  cases hu with
  | badMagic h3 => exact .inr ⟨rfl, .inl h3⟩
  | badDimension h7 => exact .inr ⟨rfl, .inr h7⟩
  | magic => exact .inl rfl
  | dimlo => exact .inl rfl
  | profile => exact .inl rfl
  | skip => exact .inl rfl

theorem afterHeaderByte_phase_cases (l : Bool) {s : State} (hp : s.phase = .hdr) :
    (afterHeaderByte l s).phase = .hdr ∨
    ((afterHeaderByte l s).phase = .body ∧ (s.hpos = 31 ∨ (l = true ∧ 7 ≤ s.hpos.toNat))) ∨
    ((afterHeaderByte l s).phase = .err ∧ l = true ∧ s.hpos.toNat ≤ 6) := by
  cases l with
  | false =>
    rw [afterHeaderByte_more hp]
    by_cases h31 : s.hpos.toNat + 1 = 32
    · exact .inr (.inl ⟨if_pos h31, .inl (by bv_omega)⟩)
    · exact .inl (if_neg h31)
  | true =>
    by_cases h6 : s.hpos.toNat ≤ 6
    · rw [afterHeaderByte_truncated hp h6]
      exact .inr (.inr ⟨rfl, rfl, h6⟩)
    · rw [afterHeaderByte_ended hp (by omega)]
      exact .inr (.inl ⟨rfl, .inr ⟨rfl, by omega⟩⟩)

theorem BodyTo.phase_cases {s u : State} (hu : BodyTo s u) :
    u.phase = s.phase ∨ (u.phase = .emit ∧ s.gidx = 127 ∧ s.gcnt = 6) := by
  cases hu with
  | early => exact .inl rfl
  | last _ hg =>
    by_cases h127 : s.gidx.toNat = 127
    · exact .inr ⟨if_pos h127, BitVec.eq_of_toNat_eq h127, hg⟩
    · exact .inl (if_neg h127)

theorem PositionTo.phase_cases {v : BitVec 6} {y x : BitVec 5} {s u : State} (hu : PositionTo v y x s u) :
    u.phase = s.phase ∨ (u.phase = .done ∧ x.toNat + 1 = v.toNat ∧ y.toNat + 1 = v.toNat) := by
  cases hu with
  | column => exact .inl rfl
  | row => exact .inl rfl
  | done hx hy => exact .inr ⟨rfl, hx, hy⟩

/-- Settles O47: a row of the table for each thing that a step can do to PHASE. -/
theorem phaseTransitions : Obligations.PhaseTransitions := by
  intro s t h
  cases StepTo.of_next h with
  | reset hr => exact .inl ⟨hr, rfl⟩
  | header hr hp _ _ hu =>
    refine .inr ⟨hr, ?_⟩
    obtain hhdr | ⟨herr, htrap⟩ := hu.phase_cases
    · have hafter := afterHeaderByte_phase_cases s.edge.inLast (hhdr.trans hp)
      rw [hu.hpos_eq] at hafter
      obtain hstay | ⟨hbody, hend⟩ | ⟨herr, htruncated⟩ := hafter
      · exact .inl (hstay.trans hp.symm)
      · exact .inr (.inl ⟨hp, hbody, hend⟩)
      · exact .inr (.inr (.inl ⟨hp, herr, .inr (.inr htruncated)⟩))
    · refine .inr (.inr (.inl ⟨hp, (congrArg State.phase (afterHeaderByte_trapped herr _)).trans herr, ?_⟩))
      exact htrap.imp_right .inl
  | bodyByte hr hp _ _ hu => exact .inr ⟨hr, hu.phase_cases.imp_right fun hemit => .inr (.inr (.inl ⟨hp, hemit⟩))⟩
  | pad hr hp _ hu => exact .inr ⟨hr, hu.phase_cases.imp_right fun hemit => .inr (.inr (.inl ⟨hp, hemit⟩))⟩
  | pixel hr hp _ _ _ hu => exact .inr ⟨hr, hu.phase_cases.imp_right fun hdone => .inr (.inr (.inr ⟨hp, hdone⟩))⟩
  | idle hr => exact .inr ⟨hr, .inl rfl⟩

/-! ### The frame invariant, phase by phase -/

theorem FrameInv.of_hdr {s : State} (hr : RegInv s) (hp : s.phase = .hdr) (h : HdrFrame s) : FrameInv s where
  regs := hr
  hdr _ := h
  body := by simp [hp]
  emit := by simp [hp]
  done := by simp [hp]
  err := by simp [hp]

theorem FrameInv.of_body {s : State} (hr : RegInv s) (hp : s.phase = .body) (h : BodyFrame s) : FrameInv s where
  regs := hr
  hdr := by simp [hp]
  body _ := h
  emit := by simp [hp]
  done := by simp [hp]
  err := by simp [hp]

theorem FrameInv.of_emit {s : State} (hr : RegInv s) (hp : s.phase = .emit) (h : EmitFrame s) : FrameInv s where
  regs := hr
  hdr := by simp [hp]
  body := by simp [hp]
  emit _ := h
  done := by simp [hp]
  err := by simp [hp]

theorem FrameInv.of_done {s : State} (hr : RegInv s) (hp : s.phase = .done)
    (h : decodeFrame s.file s.mode = .ok ⟨s.vsize, s.skip⟩ s.pixels s.short) : FrameInv s where
  regs := hr
  hdr := by simp [hp]
  body := by simp [hp]
  emit := by simp [hp]
  done _ := h
  err := by simp [hp]

theorem FrameInv.of_err {s : State} (hr : RegInv s) (hp : s.phase = .err)
    (h : decodeFrame s.file s.mode = .error s.errc) : FrameInv s where
  regs := hr
  hdr := by simp [hp]
  body := by simp [hp]
  emit := by simp [hp]
  done := by simp [hp]
  err _ := h

/-- The passing of an edge writes no register and no byte or transfer of the record. -/
theorem FrameInv.tick {s : State} (h : FrameInv s) : FrameInv s.tick where
  regs := h.regs.tick
  hdr e := { h.hdr e with }
  body e := { h.body e with }
  emit e := { h.emit e with }
  done := h.done
  err := h.err

theorem FrameInv.afterReset {s : State} (hb : Memory.wf s.idxbuf = true) : FrameInv s.afterReset :=
  .of_hdr (.afterReset hb) rfl ⟨rfl, rfl, nofun, nofun⟩

/-! ### How a header that traps decodes -/

theorem decodeFrame_badMagic {f : List Byte} {m : Mode} (hlen : 4 ≤ f.length) (hm : magicSoFar f = false) :
    decodeFrame f m = .error .badMagic :=
  if_pos ⟨hlen, hm⟩

theorem decodeFrame_truncated {f : List Byte} {m : Mode} (hlen : f.length < 8)
    (hm : 4 ≤ f.length → magicSoFar f = true) : decodeFrame f m = .error .truncatedHeader := by
  have hgood : ¬ (4 ≤ f.length ∧ magicSoFar f = false) := fun h => by simp [hm h.1] at h
  exact (if_neg hgood).trans (if_pos hlen)

theorem decodeFrame_badDimension {f : List Byte} {m : Mode} (hlen : 8 ≤ f.length) (hm : magicSoFar f = true)
    (hcode : Const.profileOf (frameCode f).toInt = none) : decodeFrame f m = .error .badDimension := by
  have hwhole : ¬ f.length < Const.hdrMin := Nat.not_lt.2 hlen
  rw [decodeFrame, if_neg (by simp [hm]), if_neg hwhole, hcode]

/-! ### A header byte keeps it -/

/-- HV.MAGIC's comparison is that of the file with the byte at its end (R101). -/
theorem magokNext_eq_magicSoFar {f : List Byte} {d : Byte} {p : BitVec 6} (hp : p.toNat ≤ 3) (hlen : f.length = p.toNat) :
    magokNext (magicSoFar f) d (p.extractLsb' 0 2) = magicSoFar (f ++ [d]) := by
  have hoff : p.extractLsb' 0 2 = BitVec.ofNat 2 f.length := by
    apply BitVec.eq_of_toNat_eq
    rw [magicOffset_toNat hp, hlen, BitVec.toNat_ofNat]
    omega
  rw [magicSoFar_append f d (by omega), magokNext, hoff, beq_eq_decide]

section FileWithTheByte

variable {s : State} (h : HdrFrame s) (d : Byte)
include h

theorem HdrFrame.length_append : (s.file ++ [d]).length = s.hpos.toNat + 1 := by
  rw [List.length_append, h.length, List.length_singleton]

theorem HdrFrame.magokNext_append (h3 : s.hpos.toNat ≤ 3) :
    magokNext s.magok d (s.hpos.extractLsb' 0 2) = magicSoFar (s.file ++ [d]) := by
  rw [h.magok, magokNext_eq_magicSoFar h3 h.length]

theorem HdrFrame.magok_append (h4 : 4 ≤ s.hpos.toNat) : s.magok = magicSoFar (s.file ++ [d]) := by
  rw [h.magok, magicSoFar_append_late _ _ (by rw [h.length]; exact h4)]

theorem HdrFrame.dimlo_append (h7 : 7 ≤ s.hpos.toNat) : s.dimlo = (s.file ++ [d]).getD 6 0 := by
  have hlen := h.length
  rw [h.dimlo (by omega), getD_append_one, if_pos (by omega)]

/-- HV.DIMHI's code is the file's (R103). -/
theorem HdrFrame.profileOf_append (h7 : s.hpos.toNat = 7) :
    Const.profileOf (frameCode (s.file ++ [d])).toInt = Const.profileOf (code16 d s.dimlo).toInt := by
  have hlen := h.length
  rw [frameCode_append_eighth _ _ (by omega), h.dimlo (by omega)]

end FileWithTheByte

/-- What `HdrFrame` says once the header operation of the offset HPOS is done, without a trap, and before HPOS moves on. -/
structure HdrFrameTaken (s : State) : Prop where
  phase : s.phase = .hdr
  length : s.file.length = s.hpos.toNat + 1
  magok : s.magok = magicSoFar s.file
  dimlo : 6 ≤ s.hpos.toNat → s.dimlo = s.file.getD 6 0
  profile : 7 ≤ s.hpos.toNat → headerGood s.file ⟨s.vsize, s.skip⟩

/-- What a header operation makes of the file with its byte: the registers are those of the longer file, or the frame is over
as `decodeFrame` says (R101 to R107, R169). -/
theorem HdrFrame.headerTo {s u : State} (h : HdrFrame s) (hr : HdrRegs s) (hp : s.phase = .hdr)
    (hu : HeaderTo s.hpos s.acceptByte.latchMode u) :
    HdrFrameTaken u ∨ (u.phase = .err ∧ decodeFrame u.file u.mode = .error u.errc) := by
  have hlen := h.length_append s.edge.inData
  have hgood (h4 : 4 ≤ s.hpos.toNat) : magicSoFar (s.file ++ [s.edge.inData]) = true :=
    (h.magok_append s.edge.inData h4).symm.trans (hr.magic h4)
  cases hu with
  | magic h3 =>
    exact .inl ⟨hp, hlen, h.magokNext_append _ h3, fun (_ : 6 ≤ s.hpos.toNat) => by omega,
      fun (_ : 7 ≤ s.hpos.toNat) => by omega⟩
  | badMagic h3 hm =>
    have hbad := h.magokNext_append s.edge.inData (by simp [h3])
    rw [h3] at hbad
    exact .inr ⟨rfl, decodeFrame_badMagic (Nat.le_trans (by rw [h3]; decide) hlen.ge) (hbad.symm.trans hm)⟩
  | dimlo h6 =>
    have hpos : s.hpos.toNat = 6 := congrArg BitVec.toNat h6
    have hlow : (s.file ++ [s.edge.inData]).getD 6 0 = s.edge.inData := by simp [h.length, hpos]
    exact .inl ⟨hp, hlen, h.magok_append _ (by omega), fun _ => hlow.symm, fun (_ : 7 ≤ s.hpos.toNat) => by omega⟩
  | profile h7 hq =>
    have hpos : s.hpos.toNat = 7 := congrArg BitVec.toNat h7
    have hheader := And.intro (hgood (by omega)) ((h.profileOf_append s.edge.inData hpos).trans hq)
    exact .inl ⟨hp, hlen, h.magok_append _ (by omega), fun _ => h.dimlo_append _ (by omega),
      fun _ => ⟨Nat.le_trans (show 8 ≤ s.hpos.toNat + 1 by omega) hlen.ge, hheader⟩⟩
  | badDimension h7 hq =>
    have hpos : s.hpos.toNat = 7 := congrArg BitVec.toNat h7
    exact .inr ⟨rfl, decodeFrame_badDimension (Nat.le_trans (by omega) hlen.ge) (hgood (by omega))
      ((h.profileOf_append s.edge.inData hpos).trans hq)⟩
  | skip hs =>
    refine .inl ⟨hp, hlen, h.magok_append _ (by omega), fun (_ : 6 ≤ s.hpos.toNat) => h.dimlo_append _ (by omega),
      fun (_ : 7 ≤ s.hpos.toNat) => headerGood_append _ (h.profile ?_)⟩
    rw [h.length]
    omega

/-- The body begins with no byte of it stored or latched. -/
theorem BodyFrame.of_start {s : State} (hi : s.gidx = 0) (hg : s.gcnt = 0) (hs : s.short = false)
    (hh : headerGood s.file ⟨s.vsize, s.skip⟩) (hmore : s.eof = false → s.file.length = 32)
    (hended : s.eof = true → s.file.length ≤ 32) : BodyFrame s where
  header := hh
  more he := ⟨by rw [hmore he, hi, hg]; rfl, hs⟩
  ended he := by
    have hle := hended he
    simp [hi, hg, hs, bodyOffset_eq, hle]
  latches k hk := by simp [hg] at hk
  entries a ha := by simp [hi, groupBase_eq] at ha

theorem HdrFrameTaken.frameInv_afterHeaderByte {s : State} (h : HdrFrameTaken s) (hr : HdrTaken s) {l : Bool}
    (hreg : RegInv (afterHeaderByte l s)) : FrameInv (afterHeaderByte l s) := by
  have hlen := h.length
  cases l with
  | false =>
    rw [afterHeaderByte_more h.phase] at hreg ⊢
    by_cases h31 : s.hpos.toNat + 1 = 32
    · exact .of_body hreg (if_pos h31) (.of_start hr.gidx hr.gcnt hr.short (h.profile (by omega))
        (fun _ => hlen.trans h31) fun _ => hlen.trans_le h31.le)
    · exact .of_hdr hreg (if_neg h31) { h with
        length := hlen.trans (hpos_succ hr.hpos).symm
        dimlo := fun (_ : 7 ≤ s.file.length) => h.dimlo (by omega)
        profile := fun (_ : 8 ≤ s.file.length) => h.profile (by omega) }
  | true =>
    by_cases h6 : s.hpos.toNat ≤ 6
    · rw [afterHeaderByte_truncated h.phase h6] at hreg ⊢
      have hmagic (h4 : 4 ≤ s.file.length) : magicSoFar s.file = true := h.magok.symm.trans (hr.magic (by omega))
      exact .of_err hreg rfl (decodeFrame_truncated (hlen.trans_lt (by omega)) hmagic)
    · rw [afterHeaderByte_ended h.phase (by omega)] at hreg ⊢
      have hle := hr.hpos
      exact .of_body hreg rfl (.of_start hr.gidx hr.gcnt hr.short (h.profile (by omega)) nofun
        fun _ => hlen.trans_le (by omega))

theorem FrameInv.headerByte {s u : State} (h : FrameInv s) (hp : s.phase = .hdr)
    (hu : HeaderTo s.hpos s.acceptByte.latchMode u) (l : Bool) : FrameInv (afterHeaderByte l u) := by
  have hreg := h.regs.acceptByte.latchMode.headerByte hp hu l
  obtain hf | ⟨herr, hdec⟩ := (h.hdr hp).headerTo (h.regs.hdr hp) hp hu
  · obtain hr | ⟨herr, -⟩ := (h.regs.acceptByte.latchMode.hdr hp).headerTo hp hu
    · exact hf.frameInv_afterHeaderByte hr hreg
    · cases hf.phase.symm.trans herr
  · rw [afterHeaderByte_trapped herr] at hreg ⊢
    exact .of_err hreg herr hdec

/-! ### A body byte keeps it -/

/-- The unpacker's part of `BodyFrame`: the latches and the stored entries are those of the file. -/
structure UnpackedSoFar (s : State) : Prop where
  latches : ∀ k : Fin 7, k.val < s.gcnt.toNat → s.b[k] = bodyByte s.file (7 * s.gidx.toNat + k.val)
  entries : ∀ a, a < groupBase s.gidx → bufGet s.idxbuf a = frameIndex s.file a

/-- A body byte at the end of the file leaves the bytes before it alone. -/
theorem UnpackedSoFar.acceptByte {s : State} (h : UnpackedSoFar s)
    (hlen : s.file.length = 32 + bodyOffset s.gidx s.gcnt) : UnpackedSoFar s.acceptByte where
  latches k (hk : k.val < s.gcnt.toNat) := by
    rw [bodyOffset_eq] at hlen
    exact (h.latches k hk).trans (by rw [State.acceptByte_file, bodyByte_append, if_pos (by simp; omega)]; rfl)
  entries a (ha : a < groupBase s.gidx) := by
    rw [bodyOffset_eq] at hlen
    rw [groupBase_eq] at ha
    exact (h.entries a ha).trans (frameIndex_append _ _ _ (by omega)).symm

theorem BodyTo.bodyOffset_eq_succ {s u : State} (hu : BodyTo s u) :
    bodyOffset u.gidx u.gcnt = bodyOffset s.gidx s.gcnt + 1 := by
  cases hu with
  | early _ hg => simp only [bodyOffset_eq, gcnt_succ hg, Nat.add_assoc]
  | last hi hg =>
    simp only [bodyOffset_eq, gidx_succ hi, hg]
    change 7 * (s.gidx.toNat + 1) + 0 = 7 * s.gidx.toNat + 6 + 1
    omega

theorem frameIndex_of_group (f : List Byte) (g : Nat) (k : Fin 8) : frameIndex f (8 * g + k.val) = (groupLanes f g)[k] := by
  have hk := k.isLt
  have hdiv : (8 * g + k.val) / 8 = g := by omega
  have hmod : (8 * g + k.val) % 8 = k.val := by omega
  simp [frameIndex, hdiv, hmod]

/-- The lanes that the seventh byte stores are those of the file's group. -/
theorem UnpackedSoFar.lanes {s : State} (h : UnpackedSoFar s) (hg : s.gcnt = 6)
    (hd : s.wires.d = bodyByte s.file (bodyOffset s.gidx s.gcnt)) :
    expandLanes s.b[0] s.b[1] s.b[2] s.b[3] s.b[4] s.b[5] s.wires.d = groupLanes s.file s.gidx.toNat := by
  have hlatch (k : Fin 7) (hk : k.val < 6) : s.b[k] = bodyByte s.file (7 * s.gidx.toNat + k.val) :=
    h.latches k (by rw [hg]; exact hk)
  rw [hg] at hd
  rw [hd, show s.b[0] = _ from hlatch 0 (by decide), show s.b[1] = _ from hlatch 1 (by decide),
    show s.b[2] = _ from hlatch 2 (by decide), show s.b[3] = _ from hlatch 3 (by decide),
    show s.b[4] = _ from hlatch 4 (by decide), show s.b[5] = _ from hlatch 5 (by decide)]
  rfl

theorem BodyTo.unpackedSoFar {s u : State} (hu : BodyTo s u) (hw : Memory.wf s.idxbuf = true) (h : UnpackedSoFar s)
    (hd : s.wires.d = bodyByte s.file (bodyOffset s.gidx s.gcnt)) : UnpackedSoFar u := by
  obtain ⟨hlatch, -⟩ := hu.loadsByte hw
  cases hu with
  | early hi hg =>
    refine ⟨fun k hk => (hlatch k).trans ?_, h.entries⟩
    rw [gcnt_succ hg] at hk
    split_ifs with hlast
    · rw [hd, bodyOffset_eq, hlast]
    · exact h.latches k (by omega)
  | last hi hg =>
    obtain ⟨-, hin, hout⟩ := bufStore_lanes hw hi (expandLanes s.b[0] s.b[1] s.b[2] s.b[3] s.b[4] s.b[5] s.wires.d)
    refine ⟨nofun, fun a ha => ?_⟩
    rw [groupBase_eq, gidx_succ hi] at ha
    by_cases hlt : a < 8 * s.gidx.toNat
    · exact (hout a (.inl hlt)).trans (h.entries a hlt)
    · obtain ⟨k, rfl⟩ : ∃ k : Fin 8, a = 8 * s.gidx.toNat + k.val :=
        ⟨⟨a - 8 * s.gidx.toNat, by omega⟩, (Nat.add_sub_cancel' (Nat.not_lt.1 hlt)).symm⟩
      exact (hin k).trans (by rw [h.lanes hg hd]; exact (frameIndex_of_group ..).symm)

/-- What a byte step makes of `BodyFrame`, for a byte of the file and for a missing one: only the end of the file differs. -/
theorem BodyTo.bodyFrame {s u : State} (hu : BodyTo s u) (hw : Memory.wf s.idxbuf = true) (h : UnpackedSoFar s)
    (hd : s.wires.d = bodyByte s.file (bodyOffset s.gidx s.gcnt)) (hh : headerGood s.file ⟨s.vsize, s.skip⟩)
    {e sh : Bool}
    (hmore : e = false → s.file.length = 32 + (bodyOffset s.gidx s.gcnt + 1) ∧ sh = false)
    (hended : e = true → s.file.length ≤ 32 + (bodyOffset s.gidx s.gcnt + 1) ∧
      (sh = true ↔ max 32 s.file.length < 32 + (bodyOffset s.gidx s.gcnt + 1))) :
    BodyFrame { u with eof := e, short := sh } := by
  obtain ⟨hlatches, hentries⟩ := hu.unpackedSoFar hw h hd
  rw [← hu.bodyOffset_eq_succ] at hmore hended
  rw [hu.frame] at hlatches hentries ⊢
  exact ⟨hh, hmore, hended, hlatches, hentries⟩

/-- After the last group the whole buffer is the file's (R125). -/
theorem BodyFrame.emitFrame {s : State} (h : BodyFrame s) (hr : EmitRegs s) (hpix : s.pixels = []) : EmitFrame s := by
  have hoff : Const.bodyOff + bodyOffset s.gidx s.gcnt = 928 := by rw [hr.gidx, hr.gcnt]; rfl
  have hbase : groupBase s.gidx = 1024 := by rw [hr.gidx]; rfl
  obtain ⟨hheader, hmore, hended, -, hentries⟩ := h
  rw [hoff] at hmore hended
  have hnone : s.y.toNat * s.vsize.toNat + s.x.toNat = 0 := by rw [← hr.pixels, hpix]; rfl
  refine ⟨hheader, ?_, ?_, fun a ha => hentries a (hbase.symm ▸ ha), by rw [hpix, hnone, List.take_zero]⟩
  · cases he : s.eof with
    | false => exact (hmore he).1.le
    | true => exact (hended he).1
  · cases he : s.eof with
    | false => simp [hmore he]
    | true => simp [(hended he).2]

theorem FrameInv.of_bodyByte {t : State} (hr : RegInv t) (hp : t.phase = .body ∨ t.phase = .emit) (hpix : t.pixels = [])
    (h : BodyFrame t) : FrameInv t := by
  obtain hp | hp := hp
  · exact .of_body hr hp h
  · exact .of_emit hr hp (h.emitFrame (hr.emit hp) hpix)

/-! ### A pixel keeps it -/

theorem frameBeats_length (f : List Byte) (m : Mode) (p : Const.Profile) :
    (frameBeats f m p).length = p.vsize.toNat * p.vsize.toNat := by
  simp [frameBeats]

/-- The beat of a raster position (R169). -/
theorem frameBeats_getElem? (f : List Byte) (m : Mode) (p : Const.Profile) {y x : Nat} (hx : x < p.vsize.toNat)
    (hy : y < p.vsize.toNat) : (frameBeats f m p)[y * p.vsize.toNat + x]? = some
      { data := framePixel f m p x y, last := decide (x + 1 = p.vsize.toNat ∧ y + 1 = p.vsize.toNat) } := by
  have hlt : y * p.vsize.toNat + x < p.vsize.toNat * p.vsize.toNat := by
    calc y * p.vsize.toNat + x < (y + 1) * p.vsize.toNat := by rw [Nat.succ_mul]; omega
      _ ≤ p.vsize.toNat * p.vsize.toNat := Nat.mul_le_mul_right _ hy
  have hpos : 0 < p.vsize.toNat := Nat.zero_lt_of_lt hx
  have hcol : (y * p.vsize.toNat + x) % p.vsize.toNat = x := by
    rw [Nat.mul_add_mod', Nat.mod_eq_of_lt hx]
  have hrow : (y * p.vsize.toNat + x) / p.vsize.toNat = y := by
    rw [Nat.mul_comm, Nat.mul_add_div hpos, Nat.div_eq_of_lt hx, Nat.add_zero]
  simp only [frameBeats, List.getElem?_map, List.getElem?_range hlt, Option.map_some, hcol, hrow, beq_eq_decide,
    rasterNumber_last_iff hx hy]

/-- With the pixel of the position transferred, the transfers are one more of the file's raster (R166, R169). -/
theorem EmitFrame.takePixel_pixels {s : State} (h : EmitFrame s) (hr : EmitRegs s) : s.takePixel.pixels =
    (frameBeats s.file s.mode ⟨s.vsize, s.skip⟩).take (s.y.toNat * s.vsize.toNat + s.x.toNat + 1) := by
  have hbeat := frameBeats_getElem? s.file s.mode ⟨s.vsize, s.skip⟩ hr.x hr.y
  have hpix : pixelNow s = framePixel s.file s.mode ⟨s.vsize, s.skip⟩ s.x.toNat s.y.toNat := by
    rw [pixelNow, h.entries _ (mapAddr_lt_of_regs hr)]
    rfl
  rw [List.take_add_one, hbeat, ← h.pixels, ← hpix, ← lastPosition_eq_decide]
  rfl

/-- With the last pixel transferred the frame has ended as the whole-frame function says. -/
theorem EmitFrame.decodeFrame_takePixel {s : State} (h : EmitFrame s) (hr : EmitRegs s)
    (hlast : s.x.toNat + 1 = s.vsize.toNat ∧ s.y.toNat + 1 = s.vsize.toNat) :
    decodeFrame s.file s.mode = .ok ⟨s.vsize, s.skip⟩ s.takePixel.pixels s.short := by
  have hpixels := h.takePixel_pixels hr
  rw [(rasterNumber_last_iff hr.x hr.y).2 hlast,
    List.take_of_length_le (frameBeats_length _ _ ⟨s.vsize, s.skip⟩).le] at hpixels
  have hshort : decide (s.file.length < Const.frameLen) = s.short := by
    rw [Bool.eq_iff_iff, decide_eq_true_iff, h.short]
  rw [decodeFrame_good h.header, hshort, hpixels]

theorem FrameInv.pixel {s u : State} (h : FrameInv s) (hp : s.phase = .emit)
    (hu : PositionTo s.vsize s.y s.x s.takePixel u) : FrameInv u := by
  have hreg := h.regs.pixel hp hu
  have hr := h.regs.emit hp
  have hf := h.emit hp
  obtain ⟨-, hv, -⟩ := legalProfile_bounds hr.profile
  by_cases hlast : s.x.toNat + 1 = s.vsize.toNat ∧ s.y.toNat + 1 = s.vsize.toNat
  · obtain ⟨-, -, hdone⟩ := hu.of_last (s := s.takePixel) hlast.1 hlast.2
    refine .of_done hreg hdone ?_
    rw [hu.frame]
    exact hf.decodeFrame_takePixel hr hlast
  · obtain ⟨hnext, -, -, hphase⟩ := hu.rasterNumber_succ (s := s.takePixel) hv hr.x hr.y hlast
    have hpixels : s.takePixel.pixels =
        (frameBeats s.file s.mode ⟨s.vsize, s.skip⟩).take (u.y.toNat * s.vsize.toNat + u.x.toNat) :=
      (hf.takePixel_pixels hr).trans (congrArg (List.take · _) hnext.symm)
    refine .of_emit hreg (hphase.trans hp) ?_
    rw [hu.frame]
    exact { hf with pixels := hpixels }

/-! ### Every clock edge keeps it -/

theorem BodyFrame.unpackedSoFar {s : State} (h : BodyFrame s) : UnpackedSoFar s := ⟨h.latches, h.entries⟩

theorem FrameInv.bodyByte {s u : State} (h : FrameInv s) (hp : s.phase = .body) (he : s.eof = false)
    (hu : BodyTo s.acceptByte u) (hreg : RegInv { u with eof := u.eof || s.edge.inLast }) :
    FrameInv { u with eof := u.eof || s.edge.inLast } := by
  have hf := h.body hp
  obtain ⟨hlen, hshort⟩ := hf.more he
  rw [bodyOff_eq] at hlen
  have hlen' : s.acceptByte.file.length = 32 + (bodyOffset s.gidx s.gcnt + 1) := by
    rw [State.acceptByte_file, List.length_append, hlen]
    rfl
  have hd : s.edge.inData = Machine.bodyByte s.acceptByte.file (bodyOffset s.gidx s.gcnt) := by
    rw [State.acceptByte_file, bodyByte_append, if_neg hlen.le.not_gt, if_pos hlen.symm]
  have hshort' : u.short = false := (congrArg State.short hu.frame :).trans hshort
  have hframe := hu.bodyFrame (e := u.eof || s.edge.inLast) (sh := u.short) h.regs.buf (hf.unpackedSoFar.acceptByte hlen) hd
    (headerGood_append _ hf.header) (fun _ => ⟨hlen', hshort'⟩) fun _ => ⟨hlen'.le, by simp [hshort', ← hlen']⟩
  exact .of_bodyByte hreg (hu.phase_eq hp) ((congrArg State.pixels hu.frame :).trans (h.regs.body hp).pixels) hframe

theorem FrameInv.pad {s u : State} (h : FrameInv s) (hp : s.phase = .body) (he : s.eof = true)
    (hu : BodyTo (s.withByte 0) u) (hreg : RegInv { u with short := true }) : FrameInv { u with short := true } := by
  have hf := h.body hp
  obtain ⟨hlen, -⟩ := hf.ended he
  rw [bodyOff_eq] at hlen
  have heof : u.eof = true := (congrArg State.eof hu.frame :).trans he
  have hframe := hu.bodyFrame (e := u.eof) (sh := true) h.regs.buf { hf.unpackedSoFar with } (bodyByte_missing hlen).symm
    hf.header (by simp [heof]) fun _ => ⟨hlen.trans (Nat.le_succ _), by simp; omega⟩
  exact .of_bodyByte hreg (hu.phase_eq hp) ((congrArg State.pixels hu.frame :).trans (h.regs.body hp).pixels) hframe

/-- Settles O56: each thing a clock edge can do keeps the invariant of its phase, or leads to the next phase's. -/
theorem stepKeepsTheFrameInvariant : Obligations.StepKeepsTheFrameInvariant := by
  intro s t h hstep
  have hreg := stepKeepsTheRegisterInvariant s t h.regs hstep
  cases StepTo.of_next hstep with
  | reset => exact (FrameInv.afterReset h.regs.buf).tick
  | header _ hp _ _ hu => exact (h.headerByte hp hu _).tick
  | bodyByte _ hp he _ hu => exact (h.bodyByte hp he hu (hreg.of_record ..)).tick
  | pad _ hp he hu => exact (h.pad hp he hu (hreg.of_record ..)).tick
  | pixel _ hp _ _ _ hu => exact (h.pixel hp hu).tick
  | idle => exact h.tick

/-- Settles O59: the reset state meets the invariant, and every clock edge of the run keeps it. -/
theorem everyReachableStateMeetsTheFrameInvariant : Obligations.EveryReachableStateMeetsTheFrameInvariant :=
  fun es n _ => run_keeps stepKeepsTheFrameInvariant n _ _ (resetMeetsTheInvariants es).2

end Sys2Proof.Machine
end

section
namespace Sys2Proof.Machine

/-! ### The terminal phases -/

/-- DONE and ERR meet no row's state condition: a byte step wants HDR or BODY, a pixel step EMIT, a pad step BODY (R170). -/
theorem stepOp_eq_none_of_frameOver {s : State} (h : FrameOver s) (hr : s.edge.rst = false) : stepOp s = none := by
  obtain hp | hp := h
  all_goals
    have hin : inReady s = false := by simp [inReady, inPermitted, hp]
    have hout : outValid s = false := by simp [outValid, outPermitted, hp]
    have hpad : padReady s = false := by simp [padReady, padPermitted, hp]
    exact stepOp_eq_none hr (by simp [hin]) (by simp [hout]) hpad

/-- Settles O48: a frame that is over selects no step, and with no step only the edge passes. -/
theorem terminalPhasesHold : Obligations.TerminalPhasesHold :=
  fun _ hp hr => step_of_none (stepOp_eq_none_of_frameOver hp hr)

end Sys2Proof.Machine
end

section
/-! PROOFS of the family `70_reset_and_hazards.md`: the work that a frame still has to do falls at every clock edge that
performs a byte or a pixel step (R210), and at an edge at which host and block are willing one of them is performed (R211). -/

namespace Sys2Proof.Machine

/-! ### The work left, phase by phase -/

theorem workLeft_of_hdr {s : State} (hp : s.phase = .hdr) : workLeft s = 2000 - s.hpos.toNat := by
  simp only [workLeft, hp]

theorem workLeft_of_body {s : State} (hp : s.phase = .body) :
    workLeft s = 896 - bodyOffset s.gidx s.gcnt + s.vsize.toNat * s.vsize.toNat := by
  simp only [workLeft, hp, bodyLen_eq]

theorem workLeft_of_emit {s : State} (hp : s.phase = .emit) :
    workLeft s = s.vsize.toNat * s.vsize.toNat - (s.y.toNat * s.vsize.toNat + s.x.toNat) := by
  simp only [workLeft, hp]

theorem workLeft_of_frameOver {s : State} (h : FrameOver s) : workLeft s = 0 := by
  obtain hp | hp := h <;> simp only [workLeft, hp]

/-- Past the header at most 896 body bytes and 32 by 32 pixels are left: less than the 1969 that the last header offset
counts. -/
theorem RegInv.workLeft_le {s : State} (h : RegInv s) (hp : s.phase ≠ .hdr) : workLeft s ≤ 896 + 32 * 32 := by
  have hsquare (hl : Const.legalProfile s.vsize s.skip = true) : s.vsize.toNat * s.vsize.toNat ≤ 32 * 32 := by
    obtain ⟨-, hv, -⟩ := legalProfile_bounds hl
    exact Nat.mul_le_mul hv hv
  cases hphase : s.phase with
  | hdr => exact absurd hphase hp
  | body =>
    have hle := hsquare (h.body hphase).profile
    rw [workLeft_of_body hphase]
    omega
  | emit =>
    have hle := hsquare (h.emit hphase).profile
    rw [workLeft_of_emit hphase]
    omega
  | done => rw [workLeft_of_frameOver (.inl hphase)]; exact Nat.zero_le _
  | err => rw [workLeft_of_frameOver (.inr hphase)]; exact Nat.zero_le _

/-! ### Each step leaves less work -/

/-- A header byte that leaves the block in HDR is counted by HPOS (R162). -/
theorem hpos_afterHeaderByte_of_hdr {l : Bool} {s : State} (h : (afterHeaderByte l s).phase = .hdr) :
    (afterHeaderByte l s).hpos = s.hpos + 1 := by
  unfold afterHeaderByte at h ⊢
  split_ifs at h ⊢ with herr
  · cases herr.symm.trans h
  · cases (State.trapEntry_phase ..).symm.trans h
  · rfl

theorem RegInv.workLeft_headerByte {s u : State} (h : RegInv s) (hp : s.phase = .hdr) (hu : HeaderTo s.hpos s u)
    (l : Bool) : workLeft (afterHeaderByte l u) < workLeft s := by
  have hpos := (h.hdr hp).hpos
  by_cases hstay : (afterHeaderByte l u).phase = .hdr
  · rw [workLeft_of_hdr hstay, workLeft_of_hdr hp, hpos_afterHeaderByte_of_hdr hstay, hu.hpos_eq, hpos_succ hpos]
    omega
  · have hle := (h.headerByte hp hu l).workLeft_le hstay
    rw [workLeft_of_hdr hp]
    omega

theorem RegInv.workLeft_bodyByte {s u : State} (h : RegInv s) (hp : s.phase = .body) (hu : BodyTo s u) :
    workLeft u < workLeft s := by
  have hlt : bodyOffset s.gidx s.gcnt < 896 := by
    have hidx := (h.body hp).gidx
    have hcnt := (h.body hp).gcnt
    rw [bodyOffset_eq]
    omega
  have hside : u.vsize = s.vsize := (congrArg State.vsize hu.frame :)
  rw [workLeft_of_body hp]
  obtain hbody | hemit := hu.phase_eq hp
  · rw [workLeft_of_body hbody, hu.bodyOffset_eq_succ, hside]
    omega
  · rw [workLeft_of_emit hemit, hside]
    omega

/-- A position inside the raster has a pixel still to come (R134). -/
theorem rasterNumber_lt {v y x : Nat} (hx : x < v) (hy : y < v) : y * v + x < v * v :=
  calc y * v + x < (y + 1) * v := by rw [Nat.succ_mul]; omega
    _ ≤ v * v := Nat.mul_le_mul_right v hy

theorem RegInv.workLeft_pixel {s u : State} (h : RegInv s) (hp : s.phase = .emit)
    (hu : PositionTo s.vsize s.y s.x s.takePixel u) : workLeft u < workLeft s := by
  have hr := h.emit hp
  have hlt := rasterNumber_lt hr.x hr.y
  rw [workLeft_of_emit hp]
  by_cases hlast : s.x.toNat + 1 = s.vsize.toNat ∧ s.y.toNat + 1 = s.vsize.toNat
  · obtain ⟨-, -, hdone⟩ := hu.of_last (s := s.takePixel) hlast.1 hlast.2
    rw [workLeft_of_frameOver (.inl hdone)]
    omega
  · obtain ⟨-, hv, -⟩ := legalProfile_bounds hr.profile
    obtain ⟨hnext, -, -, hphase⟩ := hu.rasterNumber_succ (s := s.takePixel) hv hr.x hr.y hlast
    have hside : u.vsize = s.vsize := (congrArg State.vsize hu.frame :)
    rw [workLeft_of_emit (hphase.trans hp), hside, hnext]
    change _ - (s.y.toNat * s.vsize.toNat + s.x.toNat + 1) < _
    omega

/-! ### A willing edge performs one of them -/

theorem willing_iff (s : State) : willing s = true ↔
    s.edge.rst = false ∧ s.edge.inValid = true ∧ s.edge.outReady = true ∧ s.edge.go = true := by
  simp [willing, and_assoc]

/-- The ports of a willing edge match every row of F-EVT but SEQ.RESET (R78). -/
theorem decodeEvt_of_willing {s : State} (hw : willing s = true) :
    decodeEvt (evtWord s.edge) = [.seqInbyte true, .seqOutpix true, .seqPadbyte true true] := by
  obtain ⟨hr, hv, ho, -⟩ := (willing_iff s).1 hw
  simp [decodeEvt_evtWord, decodeEvtBits, hr, hv, ho]

/-- At a willing edge the operation that the state enables is performed (R78, R211). -/
theorem step_of_willing {s t : State} {i : Instr} (hw : willing s = true)
    (hi : i ∈ [Instr.seqInbyte true, .seqOutpix true, .seqPadbyte true true]) (he : stepEnabled s i = true)
    (ht : exec i s = .next t) : step s = .next t.tick :=
  step_of_exec (stepOp_eq_some_of_enabled (decodeEvt_of_willing hw ▸ hi) he) ht

theorem RegInv.progress_of_hdr {s : State} (h : RegInv s) (hw : willing s = true) (hp : s.phase = .hdr) :
    ∃ t, step s = .next t ∧ workLeft t < workLeft s := by
  obtain ⟨-, -, -, hg⟩ := (willing_iff s).1 hw
  have he := (h.hdr hp).eof
  obtain ⟨u, hu, hto⟩ := headerPart_answers (h.hdr hp).hpos s.acceptByte.latchMode
  have hstep := step_of_willing (i := .seqInbyte true) hw (by simp) ((inReady_iff s).2 ⟨.inl hp, he, hg⟩)
    (exec_seqInbyte_of_headerPart hp he hg hu)
  exact ⟨_, hstep, (h.acceptByte.latchMode.workLeft_headerByte hp hto _ :)⟩

/-- Before the end of the file a byte is taken, after it a missing one is filled in (R163, R164). -/
theorem RegInv.progress_of_body {s : State} (h : RegInv s) (hw : willing s = true) (hp : s.phase = .body) :
    ∃ t, step s = .next t ∧ workLeft t < workLeft s := by
  obtain ⟨-, -, -, hg⟩ := (willing_iff s).1 hw
  have hr := h.body hp
  cases he : s.eof with
  | false =>
    obtain ⟨u, hu, hto⟩ := bodyPart_answers (s := s.acceptByte) hr.gidx hr.gcnt
    have hexec : exec (.seqInbyte true) s = .next { u with eof := u.eof || s.edge.inLast } :=
      (execSeqInbyte_body (r := true) hp he hg).trans (by rw [hu, andThen_next])
    have hstep := step_of_willing (i := .seqInbyte true) hw (by simp) ((inReady_iff s).2 ⟨.inr hp, he, hg⟩) hexec
    exact ⟨_, hstep, (h.acceptByte.workLeft_bodyByte hp hto :)⟩
  | true =>
    obtain ⟨u, hu, hto⟩ := bodyPart_answers (s := s.withByte 0) hr.gidx hr.gcnt
    have hexec : exec (.seqPadbyte true true) s = .next { u with short := true } :=
      (execSeqPadbyte_enabled (v := true) (r := true) hp he hg).trans (by rw [hu, andThen_next])
    have hstep := step_of_willing (i := .seqPadbyte true true) hw (by simp) ((padReady_iff s).2 ⟨hp, he, hg⟩) hexec
    exact ⟨_, hstep, ((h.withByte 0).workLeft_bodyByte hp hto :)⟩

theorem RegInv.progress_of_emit {s : State} (h : RegInv s) (hw : willing s = true) (hp : s.phase = .emit) :
    ∃ t, step s = .next t ∧ workLeft t < workLeft s := by
  obtain ⟨-, -, -, hg⟩ := (willing_iff s).1 hw
  have hr := h.emit hp
  have hout : outValid s = true := (outValid_iff s).2 ⟨hp, hg⟩
  obtain ⟨u, hu, hto⟩ := execSeqOutpix_answers (i := true) hout hr.profile (mapAddr_lt_of_regs hr)
  have hstep := step_of_willing (i := .seqOutpix true) hw (by simp) hout hu
  exact ⟨_, hstep, (h.workLeft_pixel hp hto :)⟩

/-- Settles O60: in each phase of a frame not over, the step that the phase enables is performed and leaves less work. -/
theorem willingEdgeMakesProgress : Obligations.WillingEdgeMakesProgress := by
  intro s h hover hw
  cases hp : s.phase with
  | hdr => exact h.progress_of_hdr hw hp
  | body => exact h.progress_of_body hw hp
  | emit => exact h.progress_of_emit hw hp
  | done => exact absurd (.inl hp) hover
  | err => exact absurd (.inr hp) hover

end Sys2Proof.Machine
end
